-- ==== Sys2Proof/Word.lean ====
section
/-! DEFINITION. The plain types of the model: levels, words, and a row of four like things. -/

namespace Sys2Proof

/-- A level of a line is a bit: `false` is 0 (low), `true` is 1 (high). 00_scope.md R12. -/
abbrev Level := Bool

/-- The default of the parameter `POS_WIDTH`. 00_scope.md R7; log 1. -/
abbrev defaultWidth : Nat := 32

/-- A command word `CMD` of `POS_WIDTH + 8` bits. 30_encoding.md R70. -/
abbrev Command (n : Nat) := BitVec (n + 8)

/-- The operation code `OPC = CMD[7:0]`. 30_encoding.md R70. -/
abbrev Opcode := BitVec 8

/-- `DW = max(16, POS_WIDTH)`, the width of a response datum. 30_encoding.md R73. -/
def dataWidth (n : Nat) : Nat := max 16 n

/-- The 16-bit encoding `KEYS` of a scan result. 40_keypad.md R102. -/
abbrev Keys := BitVec 16

/-- Four like things, indexed 0..3: the row lines, the column lines, a row of keys. -/
structure Quad (α : Type) where
  (q0 q1 q2 q3 : α)
deriving DecidableEq, Repr, Inhabited

namespace Quad

variable {α : Type}

/-- `x[i]`. -/
def get (q : Quad α) (i : Fin 4) : α :=
  match i with
  | 0 => q.q0
  | 1 => q.q1
  | 2 => q.q2
  | 3 => q.q3

/-- `x[i] <- v`. -/
def set (q : Quad α) (i : Fin 4) (v : α) : Quad α :=
  match i with
  | 0 => { q with q0 := v }
  | 1 => { q with q1 := v }
  | 2 => { q with q2 := v }
  | 3 => { q with q3 := v }

/-- The row whose entry at `i` is `f i`. -/
def tabulate (f : Fin 4 → α) : Quad α := ⟨f 0, f 1, f 2, f 3⟩

/-- Four times the same thing. -/
def all4 (v : α) : Quad α := ⟨v, v, v, v⟩

/-- The four entries, index 0 first. -/
def entries (q : Quad α) : List α := [q.q0, q.q1, q.q2, q.q3]

end Quad

/-- The four indices of a row, ascending. -/
def lines : List (Fin 4) := [0, 1, 2, 3]

end Sys2Proof
end

