-- ==== Sys2Proof/Config.lean ====
section
/-! DEFINITION. What is fixed for one build of the core (the parameters of 00_scope.md R8 to R11),
and what the outside world may choose: ENV's levels and keys, the draws, the turns. -/

namespace Sys2Proof

/-! ### The pin space -/

/-- `PinId`: a parameter type with decidable equality. 20_memory.md R50 ("A model may take
`PinId = Nat`"). -/
abbrev PinId := Nat

/-- The four modes a pin can be claimed in. 20_memory.md R51. -/
inductive PinMode where
  /-- `OUT`: a row line. -/
  | out
  /-- `IN`: a column line. -/
  | inp
  /-- `IN_EDGE_PU`: line A or B, both edges, pull-up. -/
  | inEdgePu
  /-- `IN_PLAIN`: the button line, no pull-up. -/
  | inPlain
deriving DecidableEq, Repr, Inhabited

/-- `PINS`: the pin of each role. A pin used for two roles is legal configuration. 00_scope.md R8. -/
structure Pins where
  row : Quad PinId
  col : Quad PinId
  a   : PinId
  b   : PinId
  btn : PinId
deriving DecidableEq, Repr

/-! ### The key map -/

/-- The 16 key labels. 40_keypad.md R100. -/
inductive KeyLabel where
  | k0 | k1 | k2 | k3 | k4 | k5 | k6 | k7 | k8 | k9
  | kA | kB | kC | kD | kStar | kHash
deriving DecidableEq, Repr, Inhabited

/-- Every label once. 40_keypad.md R100. -/
def KeyLabel.everyLabel : List KeyLabel :=
  [.k0, .k1, .k2, .k3, .k4, .k5, .k6, .k7, .k8, .k9, .kA, .kB, .kC, .kD, .kStar, .kHash]

/-- The label as it is printed. 40_keypad.md R100. -/
def KeyLabel.text : KeyLabel → Char
  | .k0 => '0' | .k1 => '1' | .k2 => '2' | .k3 => '3' | .k4 => '4'
  | .k5 => '5' | .k6 => '6' | .k7 => '7' | .k8 => '8' | .k9 => '9'
  | .kA => 'A' | .kB => 'B' | .kC => 'C' | .kD => 'D' | .kStar => '*' | .kHash => '#'

/-- The 16 cells of a grid in row-major order. -/
def gridCells (g : Quad (Quad KeyLabel)) : List KeyLabel :=
  g.q0.entries ++ g.q1.entries ++ g.q2.entries ++ g.q3.entries

/-- The grid maps onto the label set without naming a label twice. 40_keypad.md R100. -/
def gridBijective (g : Quad (Quad KeyLabel)) : Bool :=
  decide (gridCells g).Nodup && KeyLabel.everyLabel.all (fun l => (gridCells g).contains l)

/-- `KEYMAP`: a grid with the proof that it is a bijection, so that a grid that is not one cannot
be configured. 40_keypad.md R100. -/
structure KeyMap where
  grid : Quad (Quad KeyLabel)
  bijective : gridBijective grid = true
deriving DecidableEq, Repr

/-- The default grid. 40_keypad.md R101: only cell (2, 1) = `8` is a fact of the source, the other
cells are the spec's own general knowledge. PRESUMED, log 21. -/
def KeyMap.default : KeyMap where
  grid :=
    ⟨⟨.k1, .k2, .k3, .kA⟩,
     ⟨.k4, .k5, .k6, .kB⟩,
     ⟨.k7, .k8, .k9, .kC⟩,
     ⟨.kStar, .k0, .kHash, .kD⟩⟩
  bijective := by decide

/-! ### The parameters -/

/-- `POS_WIDTH`, with the proof that it is at least 2, so that no smaller one can be configured.
00_scope.md R7. -/
structure PosWidth where
  bits       : Nat
  atLeastTwo : 2 ≤ bits
deriving DecidableEq, Repr

/-- The parameters of one build. They stand in `State` so that a claim about every state is a
claim about every build; no step writes them (log 2). -/
structure Config where
  /-- `POS_WIDTH`. 00_scope.md R7; log 1. -/
  posWidth  : PosWidth
  /-- `PINS`. 00_scope.md R8. -/
  pins      : Pins
  /-- `ROW_ACTIVE`. 00_scope.md R9. -/
  rowActive : Level
  /-- `COL_ACTIVE`. 00_scope.md R9. -/
  colActive : Level
  /-- `KEYMAP`. 00_scope.md R10. -/
  keymap    : KeyMap
  /-- `pin_exists`, as the list of the pins that exist. 00_scope.md R11; log 22. -/
  existing  : List PinId
  /-- `pin_supports`, as the list of the pairs that hold. 00_scope.md R11; log 22. -/
  supported : List (PinId × PinMode)
  /-- `IO_FAULTS`. 00_scope.md R11. -/
  ioFaults  : Bool
deriving DecidableEq, Repr

/-- The width of the position register. 00_scope.md R7. -/
abbrev Config.width (c : Config) : Nat := c.posWidth.bits

/-- The build of `State.reset`: the defaults of 00_scope.md R7, R9 and 40_keypad.md R101, and the
conventions of 95_test_vectors.md (11 distinct pins, each existing and supporting its mode, no I/O
failures). The pin numbers 0..10 are a DESIGN CHOICE, log 2. -/
def Config.default : Config where
  posWidth  := ⟨defaultWidth, by decide⟩
  pins      := ⟨⟨0, 1, 2, 3⟩, ⟨4, 5, 6, 7⟩, 8, 9, 10⟩
  rowActive := true
  colActive := true
  keymap    := KeyMap.default
  existing  := [0, 1, 2, 3, 4, 5, 6, 7, 8, 9, 10]
  supported :=
    [(0, .out), (1, .out), (2, .out), (3, .out), (4, .inp), (5, .inp), (6, .inp), (7, .inp),
     (8, .inEdgePu), (9, .inEdgePu), (10, .inPlain)]
  ioFaults  := false

/-! ### The outside world -/

/-- A subset of {0..3} × {0..3}: entry (r, c) says whether key (r, c) is in it. -/
abbrev KeySet := Quad (Quad Bool)

/-- Key (r, c) is in the set. -/
def keyDown (k : KeySet) (r c : Fin 4) : Bool := (k.get r).get c

/-- The state ENV owns: the levels of lines A, B and button, and the keys held down.
10_state.md R35. A column's level is no state of its own (20_memory.md R55; log 10). -/
structure Env where
  lvlA    : Level
  lvlB    : Level
  lvlBtn  : Level
  pressed : KeySet
deriving DecidableEq, Repr, Inhabited

/-- ENV at `State.reset`: no key pressed, A = B = 0, BTN = 0, the start of 95_test_vectors.md.
DESIGN CHOICE, log 7. -/
def Env.atReset : Env := ⟨false, false, false, Quad.all4 (Quad.all4 false)⟩

/-- ENV's answer to the one fallible pin access of a step: whether it succeeds (looked at only
under `IO_FAULTS`), and the level of a column whose level is a free draw.
20_memory.md R52, R53, R55; log 5. -/
structure Draw where
  ok    : Bool
  level : Level
deriving DecidableEq, Repr, Inhabited

/-- One choice of the scheduler, with the input of the step it picks. 10_state.md R40; log 3. -/
inductive Turn where
  /-- HOST issues the command word that the low `POS_WIDTH + 8` bits of `w` write. Log 26. -/
  | issue (w : Nat) (d : Draw)
  /-- The accepted command takes its next step: a micro-step of KP.SCAN, or a held command's
  next attempt. -/
  | cont (d : Draw)
  /-- EDGE takes one micro-step of ENC.EDGE. -/
  | edge (d : Draw)
  /-- ENV moves to `e`: it may change any level and any key in one step. -/
  | env (e : Env)
  /-- The platform applies reset. 70_reset_and_hazards.md R200. -/
  | reset
deriving DecidableEq, Repr, Inhabited

/-- The turn that is taken when no turn is listed: free, so nothing can be proved of its value.
10_state.md R40 ("The choice among enabled steps is free"); log 3. -/
opaque Config.freeTurn : Nat → Turn

end Sys2Proof
end

