-- ==== Sys2Proof/Syntax.lean ====
section
/-! DEFINITION. The instructions: one constructor per row of the opcode map, 30_encoding.md R72. -/

namespace Sys2Proof

/-- The nine operations of the opcode map. 30_encoding.md R72. -/
inductive Instr where
  /-- `KP.INIT`, `0x01`, format C. 40_keypad.md R103. -/
  | kpInit
  /-- `KP.SCAN`, `0x02`, format C. 40_keypad.md R105. -/
  | kpScan
  /-- `KP.SHUTDOWN`, `0x03`, format C. 40_keypad.md R113. -/
  | kpShutdown
  /-- `ENC.INIT`, `0x11`, format C. 41_encoder.md R133. -/
  | encInit
  /-- `ENC.GETPOS`, `0x12`, format C. 41_encoder.md R140. -/
  | encGetpos
  /-- `ENC.SETPOS value`, `0x13`, format CD; the operand is the signed value of DATA.
  30_encoding.md R75; 41_encoder.md R141; log 24. -/
  | encSetpos (value : Int)
  /-- `ENC.GETBTN`, `0x14`, format C. 41_encoder.md R142. -/
  | encGetbtn
  /-- `ENC.SHUTDOWN`, `0x15`, format C. 41_encoder.md R143. -/
  | encShutdown
  /-- `ENC.EDGE`, `0x80`, format EV: the core raises it for itself. 41_encoder.md R136. -/
  | encEdge
deriving DecidableEq, Repr, Inhabited

/-- The formats of 30_encoding.md R71. -/
inductive Format where
  /-- `C`: a command without operand. -/
  | c
  /-- `CD`: a command with data. -/
  | cd
  /-- `EV`: an internal event. -/
  | ev
deriving DecidableEq, Repr

/-- The format column of the opcode map. 30_encoding.md R72. -/
def Instr.format : Instr → Format
  | .kpInit | .kpScan | .kpShutdown => .c
  | .encInit | .encGetpos | .encGetbtn | .encShutdown => .c
  | .encSetpos _ => .cd
  | .encEdge => .ev

end Sys2Proof
end

