-- ==== Sys2Proof/WellFormed.lean ====
section
/-! DEFINITION. Which instructions can be written in a command word, which of them HOST may
issue, and which wait for the encoder's lock. -/

namespace Sys2Proof

/-- The operand of ENC.SETPOS lies in [-2^(POS_WIDTH-1), 2^(POS_WIDTH-1) - 1]; a value outside
"cannot be written in one command". 30_encoding.md R75. -/
def operandInRange (n : Nat) (v : Int) : Bool :=
  decide (-(2 : Int) ^ (n - 1) ≤ v) && decide (v < (2 : Int) ^ (n - 1))

/-- The instruction has an encoding at the width `n`. 30_encoding.md R70, R75. -/
def Instr.wellFormed (n : Nat) : Instr → Bool
  | .encSetpos v => operandInRange n v
  | .kpInit | .kpScan | .kpShutdown => true
  | .encInit | .encGetpos | .encGetbtn | .encShutdown | .encEdge => true

/-- The instruction is one of the eight host commands (SPACE = 0). 30_encoding.md R72, R78. -/
def Instr.hostCommand : Instr → Bool
  | .encEdge => false
  | .kpInit | .kpScan | .kpShutdown => true
  | .encInit | .encGetpos | .encSetpos _ | .encGetbtn | .encShutdown => true

/-- The command holds while a handler run is in progress. 41_encoder.md R144. -/
def Instr.takesLock : Instr → Bool
  | .encInit | .encGetpos | .encSetpos _ | .encShutdown => true
  | .kpInit | .kpScan | .kpShutdown | .encGetbtn | .encEdge => false

end Sys2Proof
end

