-- ==== Sys2Proof/Decode.lean ====
section
/-! DEFINITION. The fields of a command word, the decoder of the opcode map and of the host port,
and the encoder. 30_encoding.md R70 to R82. Words are whole: there are no bytes to order
(20_memory.md R56). -/

namespace Sys2Proof

/-- The command word on the host port's `POS_WIDTH + 8` lines: the low bits of `w`.
30_encoding.md R70, R79. -/
def commandWord (n w : Nat) : Command n := BitVec.ofNat (n + 8) w

/-- `OPC = CMD[7:0]`. 30_encoding.md R70. -/
def opcField {n : Nat} (w : Command n) : Opcode := w.extractLsb' 0 8

/-- `DATA = CMD[POS_WIDTH+7:8]`. 30_encoding.md R70. -/
def dataField {n : Nat} (w : Command n) : BitVec n := w.extractLsb' 8 n

/-- `SPACE = OPC[7]`. 30_encoding.md R70. -/
def spaceField (o : Opcode) : Bool := o.getLsbD 7

/-- `UNIT = OPC[6:4]`. 30_encoding.md R70. -/
def unitField (o : Opcode) : BitVec 3 := o.extractLsb' 4 3

/-- `OP = OPC[3:0]`. 30_encoding.md R70. -/
def opField (o : Opcode) : BitVec 4 := o.extractLsb' 0 4

/-- Why a word is no instruction. -/
inductive Reject where
  /-- OPC[7] = 1 on the host port. 30_encoding.md R77, R78. -/
  | internalSpace
  /-- An OPC that no row of the map has. 30_encoding.md R77. -/
  | unassigned
deriving DecidableEq, Repr

/-- The whole opcode map of 30_encoding.md R72, internal event included. DATA is looked at only
in format CD (R71). Log 13. -/
def decode {n : Nat} (w : Command n) : Except Reject Instr :=
  match opcField w with
  | 0x01#8 => .ok .kpInit
  | 0x02#8 => .ok .kpScan
  | 0x03#8 => .ok .kpShutdown
  | 0x11#8 => .ok .encInit
  | 0x12#8 => .ok .encGetpos
  | 0x13#8 => .ok (.encSetpos (dataField w).toInt)
  | 0x14#8 => .ok .encGetbtn
  | 0x15#8 => .ok .encShutdown
  | 0x80#8 => .ok .encEdge
  | _ => .error .unassigned

/-- The decoder of the host port: the internal space is illegal there. 30_encoding.md R82. -/
def decodeHost {n : Nat} (w : Command n) : Except Reject Instr :=
  if spaceField (opcField w) then .error .internalSpace else decode w

/-- The OPC column of the opcode map. 30_encoding.md R72. -/
def opcodeOf : Instr → Opcode
  | .kpInit => 0x01#8
  | .kpScan => 0x02#8
  | .kpShutdown => 0x03#8
  | .encInit => 0x11#8
  | .encGetpos => 0x12#8
  | .encSetpos _ => 0x13#8
  | .encGetbtn => 0x14#8
  | .encShutdown => 0x15#8
  | .encEdge => 0x80#8

/-- The DATA field that is written: the operand's two's complement in format CD, else 0.
30_encoding.md R71, R75, R80. -/
def operandBits (n : Nat) : Instr → BitVec n
  | .encSetpos v => BitVec.ofInt n v
  | .kpInit | .kpScan | .kpShutdown => 0
  | .encInit | .encGetpos | .encGetbtn | .encShutdown | .encEdge => 0

/-- `CMD = {DATA, OPC}`. 30_encoding.md R70, R80. -/
def encode (n : Nat) (i : Instr) : Command n := operandBits n i ++ opcodeOf i

/-- The word with the bits the core ignores set to what a host must write: DATA = 0 outside
format CD. 30_encoding.md R71. -/
def canonicalWord {n : Nat} (w : Command n) : Command n :=
  if opcField w = 0x13#8 then w else (0 : BitVec n) ++ opcField w

/-- What the whole map gives for the command word of the low bits of `w`. 30_encoding.md R72. -/
def decodeWord (n w : Nat) : Except Reject Instr := decode (commandWord n w)

/-- What the host port decodes from the command word on its lines. 30_encoding.md R79, R82. -/
def decodeHostWord (n w : Nat) : Except Reject Instr := decodeHost (commandWord n w)

/-- The instruction the decoder reads from the word whose bits are `w`, the bits from `nbits` up
being 0, at the default `POS_WIDTH`, which is the opcode table's (the host's fixed name;
log 13). -/
def decodeTableWord (nbits w : Nat) : Option Instr :=
  (decodeWord defaultWidth (w % 2 ^ nbits)).toOption

end Sys2Proof
end

