-- ==== Sys2Proof/Machine/State.lean ====
section
/-! DEFINITION. The machine's state: every register of 10_state.md, the host port, what ENV owns,
the configuration, and the model's own schedule and draw. Plain data throughout. -/

namespace Sys2Proof.Machine

/-- The edge handler's progress. 10_state.md R24. -/
inductive EncPhase where
  /-- `IDLE`: no handler run is in progress. -/
  | idle
  /-- `GOT_A`: A has been read. -/
  | gotA
  /-- `GOT_B`: B has been read. -/
  | gotB
deriving DecidableEq, Repr

/-- The output state of a row line: `Z`, or a driven level. 10_state.md R27. -/
inductive Drive where
  /-- `Z`: the core does not drive the line. -/
  | z
  /-- The core drives this level. -/
  | level (v : Level)
deriving DecidableEq, Repr

/-- The step of a scan's triple. 10_state.md R29. -/
inductive ScanStep where
  /-- `ACT`: activate row r. -/
  | act
  /-- `SAMPLE`: sample column c of row r. -/
  | sample
  /-- `DEACT`: deactivate row r. -/
  | deact
deriving DecidableEq, Repr

/-- The scan sequencer: `IDLE` or `(r, c, step)`. 10_state.md R29. -/
inductive Seq where
  | idle
  | run (r c : Fin 4) (step : ScanStep)
deriving DecidableEq, Repr

/-- The status codes that are produced. 30_encoding.md R73; the reserved codes 5, 6, 7 have no
constructor. -/
inductive Status where
  | ok
  | hwInitError
  | hwReadError
  | notInitialized
  | illegalCommand
deriving DecidableEq, Repr

/-- One response `RSP`. 30_encoding.md R73. -/
structure Response where
  /-- `STATUS`. -/
  status : Status
  /-- `RDATA`: the number its `DW` bits write. Log 1. -/
  rdata  : Nat
deriving DecidableEq, Repr

/-- The finite map from PinId to PinMode, as a list of pairs with strictly rising pins
(log 15). 10_state.md R31. -/
abbrev Claims := List (PinId × PinMode)

/-- The machine. -/
structure State where
  /-- `position`: the signed value of its `POS_WIDTH` bits; every write wraps into their range.
  10_state.md R21; log 1. -/
  position    : Int
  /-- `prevA`. 10_state.md R22. -/
  prevA       : Level
  /-- `prevB`. 10_state.md R22. -/
  prevB       : Level
  /-- `edge_pending`. 10_state.md R23. -/
  edgePending : Bool
  /-- `enc_phase`; not `IDLE` means the lock is held. 10_state.md R24. -/
  encPhase    : EncPhase
  /-- `latch_a`. 10_state.md R24. -/
  latchA      : Level
  /-- `latch_b`. 10_state.md R24. -/
  latchB      : Level
  /-- `enc_cfg`. 10_state.md R25. -/
  encCfg      : Bool
  /-- `enc_fault`, sticky. 10_state.md R36. -/
  encFault    : Bool
  /-- `kp_cfg`. 10_state.md R26. -/
  kpCfg       : Bool
  /-- `row_drive[0..3]`. 10_state.md R27. -/
  rowDrive    : Quad Drive
  /-- `seq`. 10_state.md R29. -/
  seq         : Seq
  /-- `keys_acc`. 10_state.md R30. -/
  keysAcc     : Keys
  /-- `claimed`. 10_state.md R31. -/
  claimed     : Claims
  /-- `host_busy`. 10_state.md R31; 30_encoding.md R74. -/
  hostBusy    : Bool
  /-- The accepted command that has no response yet. Implied by 30_encoding.md R74 and
  41_encoder.md R144. DEDUCED, log 8. -/
  cmd         : Option Instr
  /-- The response list, oldest first. 30_encoding.md R73; 70_reset_and_hazards.md R215; log 9. -/
  responses   : List Response
  /-- What ENV owns. 10_state.md R35. -/
  env         : Env
  /-- The parameters, written by no step. 00_scope.md R8 to R11; log 2. -/
  cfg         : Config
  /-- The model's own: ENV's answer to the pin access of the step in progress (log 5). -/
  draw        : Draw
  /-- The model's own: the turns to be taken, the next one first (log 3). -/
  schedule    : List Turn
  /-- The model's own: how many free turns were taken (log 3). -/
  clock       : Nat
deriving DecidableEq, Repr

/-- Why the machine could stop with a fault. It has no constructor: no rule of the spec stops the
machine. A failed read of the handler is a record in the state, `encFault`, and the machine goes
on (10_state.md R36; 00_scope.md R14; log 23). Safe: nothing is cut short. -/
inductive Fault where
deriving DecidableEq, Repr

/-- Why a step could have no meaning. -/
inductive Refusal where
  /-- Raised by an arm of `exec` whose instruction has no meaning yet; no arm does. Safe. -/
  | notModelled (mnemonic : String)
deriving DecidableEq, Repr

/-- The machine after reset, for a build and a state of ENV. 10_state.md R39. The latches and
`keys_acc` are unspecified there; 0 is a DESIGN CHOICE, log 6. -/
def State.resetOf (cfg : Config) (env : Env) : State where
  position    := 0
  prevA       := false
  prevB       := false
  edgePending := false
  encPhase    := .idle
  latchA      := false
  latchB      := false
  encCfg      := false
  encFault    := false
  kpCfg       := false
  rowDrive    := Quad.all4 .z
  seq         := .idle
  keysAcc     := 0
  claimed     := []
  hostBusy    := false
  cmd         := none
  responses   := []
  env         := env
  cfg         := cfg
  draw        := ⟨true, false⟩
  schedule    := []
  clock       := 0

/-- The machine right after reset, in the default build and with ENV at its start. 10_state.md R39;
70_reset_and_hazards.md R200, R201; log 2, log 7. -/
def State.reset : State := State.resetOf Config.default Env.atReset

end Sys2Proof.Machine
end

