-- ==== Sys2Proof/Machine/Flags.lean ====
section
/-! DEFINITION. The outcome codes and the one fault record (the core has no condition codes,
10_state.md R37), and the encoder's table and arithmetic. -/

namespace Sys2Proof.Machine

/-! ### Status and FAULT -/

/-- The 3-bit code of a status. 30_encoding.md R73. -/
def statusCode : Status → BitVec 3
  | .ok => 0
  | .hwInitError => 1
  | .hwReadError => 2
  | .notInitialized => 3
  | .illegalCommand => 4

/-- The core's status output `FAULT = enc_fault`. 30_encoding.md R73; 10_state.md R36. -/
def faultOutput (s : State) : Bool := s.encFault

/-! ### The transition table -/

/-- An entry of the transition table: a delta, or the sentinel AMB. 41_encoder.md R130. -/
inductive Delta where
  | minusOne
  | zero
  | plusOne
  /-- `AMB`: never added. -/
  | amb
deriving DecidableEq, Repr

/-- `idx = {prevA, prevB, curA, curB}`, prevA as bit 3. 41_encoder.md R130; 00_scope.md R12. -/
def tableIndex (prevA prevB curA curB : Level) : BitVec 4 :=
  BitVec.ofBool prevA ++ BitVec.ofBool prevB ++ BitVec.ofBool curA ++ BitVec.ofBool curB

/-- The 16 entries, index 0 first. 41_encoder.md R130. -/
def transitionTable : List Delta :=
  [.zero,     -- 00 00
   .minusOne, -- 00 01
   .plusOne,  -- 00 10
   .amb,      -- 00 11
   .plusOne,  -- 01 00
   .zero,     -- 01 01
   .amb,      -- 01 10
   .minusOne, -- 01 11
   .minusOne, -- 10 00
   .amb,      -- 10 01
   .zero,     -- 10 10
   .plusOne,  -- 10 11
   .amb,      -- 11 00
   .plusOne,  -- 11 01
   .minusOne, -- 11 10
   .zero]     -- 11 11

/-- `TransitionTable[idx]`. The table has an entry for each of the 16 indices
(`transitionTable_length`), so the default is never read. -/
def tableEntry (idx : BitVec 4) : Delta := transitionTable.getD idx.toNat .amb

/-- The 2-bit code an entry is stored as. 41_encoder.md R132. -/
def deltaCode : Delta → BitVec 2
  | .zero => 0b00
  | .plusOne => 0b01
  | .minusOne => 0b11
  | .amb => 0b10

/-- The stored table, entry i at bits [2i+1:2i]. 41_encoder.md R132. -/
def transitionRom : BitVec 32 := 0x364BE19C

/-- The stored code of entry `idx`. 41_encoder.md R132. -/
def romCode (idx : BitVec 4) : BitVec 2 := transitionRom.extractLsb' (2 * idx.toNat) 2

/-- What an entry adds to the position; AMB adds nothing. 41_encoder.md R130, R145. -/
def deltaValue : Delta → Int
  | .minusOne => -1
  | .zero => 0
  | .plusOne => 1
  | .amb => 0

/-- `wrap_n(x)`: the value congruent to x modulo 2^n in [-2^(n-1), 2^(n-1) - 1]. 00_scope.md R12. -/
def wrapPosition (n : Nat) (x : Int) : Int := x.bmod (2 ^ n)

/-- Delta application: AMB leaves the position, every other entry is added in the integers and
the sum wrapped. No flag reports the wrap. 41_encoder.md R131. -/
def applyDelta (n : Nat) (d : Delta) (p : Int) : Int :=
  match d with
  | .amb => p
  | .minusOne => wrapPosition n (p + deltaValue .minusOne)
  | .zero => wrapPosition n (p + deltaValue .zero)
  | .plusOne => wrapPosition n (p + deltaValue .plusOne)

end Sys2Proof.Machine
end

