-- ==== Sys2Proof/Machine/Operands.lean ====
section
/-! DEFINITION. The operands and results of the commands: the pin lists of the INIT and SHUTDOWN
commands, the position operand, the response data, the place of a key in KEYS, and the column
rule, which says what a column read answers. -/

namespace Sys2Proof.Machine

/-! ### Pin lists -/

/-- The keypad's pins with their modes, rows first. 40_keypad.md R103. -/
def kpPinList (p : Pins) : List (PinId × PinMode) :=
  [(p.row.get 0, .out), (p.row.get 1, .out), (p.row.get 2, .out), (p.row.get 3, .out),
   (p.col.get 0, .inp), (p.col.get 1, .inp), (p.col.get 2, .inp), (p.col.get 3, .inp)]

/-- The encoder's pins with their modes. 41_encoder.md R133. -/
def encPinList (p : Pins) : List (PinId × PinMode) :=
  [(p.a, .inEdgePu), (p.b, .inEdgePu), (p.btn, .inPlain)]

/-! ### Operand and results -/

/-- The position ENC.SETPOS writes for its operand: an operand that a word can carry, as it is.
30_encoding.md R75; 41_encoder.md R141; log 24. -/
def positionOperand (n : Nat) (v : Int) : Int := wrapPosition n v

/-- `sext_DW(position)`. 30_encoding.md R76. -/
def positionData (n : Nat) (p : Int) : Nat := (BitVec.ofInt (dataWidth n) p).toNat

/-- `zext_DW(KEYS)`. 30_encoding.md R76. -/
def keysData (k : Keys) : Nat := k.toNat

/-- `zext_DW(level)`. 30_encoding.md R76. -/
def levelData (v : Level) : Nat := v.toNat

/-- The bit of KEYS for key (r, c): `4*r + c`. 40_keypad.md R102. -/
def keyBit (r c : Fin 4) : Nat := 4 * r.val + c.val

/-- `keys[4*r + c] <- 1`. 40_keypad.md R105. -/
def setKey (k : Keys) (r c : Fin 4) : Keys := k ||| (1#16 <<< keyBit r c)

/-- The KEYS value whose bits are the keys of a set. 40_keypad.md R102. -/
def keysOf (k : KeySet) : Keys :=
  lines.foldl (fun acc r =>
    lines.foldl (fun acc c => if keyDown k r c then setKey acc r c else acc) acc) 0

/-! ### The column rule, 20_memory.md R55 -/

/-- The rows driven to `ROW_ACTIVE`: the set `act`. 20_memory.md R55. -/
def activeRows (rowActive : Level) (d : Quad Drive) : List (Fin 4) :=
  lines.filter (fun r => d.get r == .level rowActive)

/-- Rows i and j have a pressed key in one column: a path of length two in the graph G.
20_memory.md R55. -/
def rowsShareColumn (p : KeySet) (i j : Fin 4) : Bool :=
  lines.any (fun c => keyDown p i c && keyDown p j c)

/-- A set of rows with the rows added that share a column with one of them. -/
def growRows (p : KeySet) (k : Quad Bool) : Quad Bool :=
  Quad.tabulate (fun i => k.get i || lines.any (fun j => k.get j && rowsShareColumn p j i))

/-- The rows of the connected component K of row r. Three times suffices: a path that repeats no
row joins at most four. 20_memory.md R55. -/
def componentRows (p : KeySet) (r : Fin 4) : Quad Bool :=
  growRows p (growRows p (growRows p (Quad.tabulate (fun i => i == r))))

/-- Column c is in the connected component of row r. 20_memory.md R55. -/
def componentHasColumn (p : KeySet) (r c : Fin 4) : Bool :=
  lines.any (fun i => (componentRows p r).get i && keyDown p i c)

/-- The connected component of row r contains a row but r. 20_memory.md R55. -/
def componentHasOtherRow (p : KeySet) (r : Fin 4) : Bool :=
  lines.any (fun i => i != r && (componentRows p r).get i)

/-- The level of column c, given the draw `free` that stands for it where it is undetermined.
20_memory.md R55. No row active, and ghosting or row contention: a free draw. Two or more rows
active, of which R55 does not speak: a free draw too, DEDUCED, log 11. -/
def columnLevel (cfg : Config) (d : Quad Drive) (p : KeySet) (free : Level) (c : Fin 4) : Level :=
  match activeRows cfg.rowActive d with
  | [] => free
  | [r] =>
    if componentHasColumn p r c then
      if componentHasOtherRow p r then free else cfg.colActive
    else !cfg.colActive
  | _ :: _ :: _ => free

end Sys2Proof.Machine
end

