-- ==== Sys2Proof/Machine/Ops.lean ====
section
/-! DEFINITION. The named operations: the claim map, the pin primitives, answering a command
(normally, with an error, by a hold), entering and leaving the edge handler, reset. -/

namespace Sys2Proof.Machine

/-! ### The claim map, 10_state.md R31 -/

/-- The mode a pin is claimed in, if it is claimed. -/
def claimMode (m : Claims) (p : PinId) : Option PinMode :=
  match m with
  | [] => none
  | (q, mode) :: rest => if q = p then some mode else claimMode rest p

/-- `claimed[p] <- mode`, in the canonical form. -/
def insertClaim (p : PinId) (mode : PinMode) (m : Claims) : Claims :=
  match m with
  | [] => [(p, mode)]
  | (q, old) :: rest =>
    if p < q then (p, mode) :: (q, old) :: rest
    else if p = q then (p, mode) :: rest
    else (q, old) :: insertClaim p mode rest

/-- The map without pin p. -/
def eraseClaim (p : PinId) (m : Claims) : Claims := m.filter (fun e => e.1 != p)

/-- The canonical form: pins strictly rising, so equal maps are equal lists (log 15). -/
def claimsCanonical : Claims → Bool
  | [] => true
  | (p, _) :: rest => rest.all (fun e => decide (p < e.1)) && claimsCanonical rest

/-! ### Claim and release, 20_memory.md R54 -/

/-- Why a claim fails: the causes of `HardwareInitError`. 20_memory.md R54; 60_exceptions.md R171. -/
inductive ClaimFailure where
  /-- "out of range" / "unavailable". -/
  | missing
  /-- "already in use" / "already claimed", by another claim or earlier in the same list. -/
  | inUse
  /-- "wrong mode support". -/
  | wrongMode
deriving DecidableEq, Repr

/-- `pin_exists`. 00_scope.md R11. -/
def pinExists (c : Config) (p : PinId) : Bool := c.existing.contains p

/-- `pin_supports`. 00_scope.md R11. -/
def pinSupports (c : Config) (p : PinId) (m : PinMode) : Bool := c.supported.contains (p, m)

/-- The check of one pair, in the order of the rule. 20_memory.md R54. -/
def checkClaim (c : Config) (claimed : Claims) (seen : List PinId) (p : PinId) (m : PinMode) :
    Option ClaimFailure :=
  if !pinExists c p then some .missing
  else if (claimMode claimed p).isSome || seen.contains p then some .inUse
  else if !pinSupports c p m then some .wrongMode
  else none

/-- The first check that fails, in list order. 20_memory.md R54; 60_exceptions.md R178. -/
def firstClaimFailure (c : Config) (claimed : Claims) (seen : List PinId) :
    List (PinId × PinMode) → Option ClaimFailure
  | [] => none
  | (p, m) :: rest =>
    match checkClaim c claimed seen p m with
    | some f => some f
    | none => firstClaimFailure c claimed (p :: seen) rest

/-- `ClaimAll(list)`: every pair is claimed, or none. 20_memory.md R54. -/
def claimAll (c : Config) (claimed : Claims) (l : List (PinId × PinMode)) :
    Except ClaimFailure Claims :=
  match firstClaimFailure c claimed [] l with
  | some f => .error f
  | none => .ok (l.foldl (fun m e => insertClaim e.1 e.2 m) claimed)

/-- `Release(list)`: removes every listed pin, and never fails. 20_memory.md R54. -/
def releaseAll (claimed : Claims) (l : List (PinId × PinMode)) : Claims :=
  l.foldl (fun m e => eraseClaim e.1 m) claimed

/-! ### Pin access, 20_memory.md R52, R53 -/

/-- The `ok` of a fallible access: 1 without `IO_FAULTS`, else the step's draw.
20_memory.md R52, R53. -/
def accessOk (s : State) : Bool := !s.cfg.ioFaults || s.draw.ok

/-- The input lines. 20_memory.md R50. -/
inductive InputLine where
  | col (c : Fin 4)
  | a
  | b
  | btn
deriving DecidableEq, Repr

/-- The level of an input line at this instant. 20_memory.md R52, R55; log 16. -/
def lineLevel (s : State) : InputLine → Level
  | .col c => columnLevel s.cfg s.rowDrive s.env.pressed s.draw.level c
  | .a => s.env.lvlA
  | .b => s.env.lvlB
  | .btn => s.env.lvlBtn

/-- `GpioRead(pin) -> (ok, level)`: `none` is `ok = 0`, where the level is meaningless. It changes
no state. 20_memory.md R52. -/
def gpioRead (s : State) (l : InputLine) : Option Level :=
  if accessOk s then some (lineLevel s l) else none

/-- `GpioWrite(ROW_PIN[r], v) -> ok`: only a write of `ROW_ACTIVE` may fail, and it then leaves
the row as it was (`none`). 20_memory.md R53. -/
def gpioWrite (s : State) (r : Fin 4) (v : Level) : Option State :=
  if v = s.cfg.rowActive ∧ accessOk s = false then none
  else some { s with rowDrive := s.rowDrive.set r (.level v) }

/-- The write of the inactive level `1 - ROW_ACTIVE`, which never fails. 20_memory.md R53. -/
def State.deactivateRow (s : State) (r : Fin 4) : State :=
  { s with rowDrive := s.rowDrive.set r (.level (!s.cfg.rowActive)) }

/-! ### Answering a command -/

/-- `respond(status, data)`: the response leaves on the host port and `host_busy <- 0`.
30_encoding.md R73, R74. -/
def State.respond (s : State) (st : Status) (data : Nat) : State :=
  { s with hostBusy := false, cmd := none, responses := s.responses ++ [⟨st, data⟩] }

/-- `raise <Error>()`: an error ends the command that met it. The response is the whole record:
RDATA is 0, nothing is saved and control moves nowhere. 60_exceptions.md R176; 30_encoding.md R76. -/
def State.raise (s : State) (st : Status) : State := s.respond st 0

/-- The command is accepted and not answered yet: `host_busy <- 1`. It is what an issue that does
not answer leaves, and what a hold leaves. 30_encoding.md R74; 41_encoder.md R144. -/
def State.accept (s : State) (i : Instr) : State := { s with hostBusy := true, cmd := some i }

/-- A command that takes the lock: it holds while a handler run is in progress, else it has its
effect. 41_encoder.md R144. -/
def withLock (i : Instr) (s : State) (effect : State → Host.Outcome State Fault Refusal) :
    Host.Outcome State Fault Refusal :=
  if s.encPhase = .idle then effect s else .next (s.accept i)

/-! ### The edge handler's entry and return -/

/-- Handler entry: it clears `edge_pending`, takes the lock and saves nothing.
60_exceptions.md R179; 41_encoder.md R136. -/
def State.enterHandler (s : State) : State := { s with edgePending := false, encPhase := .gotA }

/-- Handler return: `enc_phase <- IDLE` releases the lock. 60_exceptions.md R180. -/
def State.leaveHandler (s : State) : State := { s with encPhase := .idle }

/-- A failed read of the handler: the record is set and the handler returns.
41_encoder.md R139; 10_state.md R36. -/
def State.failHandler (s : State) : State := { s.leaveHandler with encFault := true }

/-- ENC.EDGE's step 1 is enabled. 41_encoder.md R136. -/
def handlerMayStart (s : State) : Bool :=
  s.encCfg && s.edgePending && decide (s.encPhase = .idle)

/-! ### Around a step -/

/-- The step's draw takes the place of the one before. 20_memory.md R52; log 5. -/
def State.withDraw (s : State) (d : Draw) : State := { s with draw := d }

/-- The ENV step to `e`: a level of A or B that differs is an edge, which sets `edge_pending`
while `enc_cfg = 1` and is lost otherwise. 41_encoder.md R135. -/
def State.envStep (s : State) (e : Env) : State :=
  { s with
    env := e
    edgePending :=
      s.edgePending || (s.encCfg && (s.env.lvlA != e.lvlA || s.env.lvlB != e.lvlB)) }

/-- Reset at any time: every register takes its reset value, ENV keeps its state. What HOST has
received, the build and the turns to come are not registers of the core and stay (log 12).
70_reset_and_hazards.md R200. -/
def State.applyReset (s : State) : State :=
  { State.resetOf s.cfg s.env with
    responses := s.responses
    draw := s.draw
    schedule := s.schedule
    clock := s.clock }

end Sys2Proof.Machine
end

