-- ==== Sys2Proof/Machine/Edge.lean ====
section
/-! DEFINITION. The internal event ENC.EDGE: the edge handler's three micro-steps.
41_encoder.md R136 to R139. -/

namespace Sys2Proof.Machine

/-- Micro-step 1: start and sample A. 41_encoder.md R136, R139. -/
def edgeSampleA (s : State) : State :=
  match gpioRead s .a with
  | none => s.enterHandler.failHandler
  | some v => { s.enterHandler with latchA := v }

/-- Micro-step 2: sample B. 41_encoder.md R137, R139. -/
def edgeSampleB (s : State) : State :=
  match gpioRead s .b with
  | none => s.failHandler
  | some v => { s with latchB := v, encPhase := .gotB }

/-- Micro-step 3: commit. The new levels are stored even when the entry is AMB.
41_encoder.md R138. -/
def edgeCommit (s : State) : State :=
  State.leaveHandler
    { s with
      position :=
        applyDelta s.cfg.width (tableEntry (tableIndex s.prevA s.prevB s.latchA s.latchB)) s.position
      prevA := s.latchA
      prevB := s.latchB }

/-- ENC.EDGE: the micro-step `enc_phase` selects. Where step 1 is not enabled there is no step to
take and nothing changes (log 4). 41_encoder.md R136, R137, R138. -/
def execEncEdge (s : State) : Host.Outcome State Fault Refusal :=
  match s.encPhase with
  | .idle => if handlerMayStart s then .next (edgeSampleA s) else .next s
  | .gotA => .next (edgeSampleB s)
  | .gotB => .next (edgeCommit s)

end Sys2Proof.Machine
end

