-- ==== Sys2Proof/Machine/Encoder.lean ====
section
/-! DEFINITION. Unit ENC's host commands: ENC.INIT, ENC.GETPOS, ENC.SETPOS, ENC.GETBTN,
ENC.SHUTDOWN. 41_encoder.md. -/

namespace Sys2Proof.Machine

/-- What ENC.INIT does once it has the lock. 41_encoder.md R133, R134. -/
def encInitEffect (s : State) : Host.Outcome State Fault Refusal :=
  match claimAll s.cfg s.claimed (encPinList s.cfg.pins) with
  | .error _ => .next (s.raise .hwInitError)
  | .ok m =>
    .next (State.respond
      { s with
        claimed := m
        position := 0
        prevA := false
        prevB := false
        edgePending := false
        encCfg := true } .ok 0)

/-- ENC.INIT. 41_encoder.md R133. -/
def execEncInit (s : State) : Host.Outcome State Fault Refusal :=
  withLock .encInit s encInitEffect

/-- What ENC.GETPOS does once it has the lock: it does not test `enc_cfg`. 41_encoder.md R140. -/
def encGetposEffect (s : State) : Host.Outcome State Fault Refusal :=
  .next (s.respond .ok (positionData s.cfg.width s.position))

/-- ENC.GETPOS. 41_encoder.md R140. -/
def execEncGetpos (s : State) : Host.Outcome State Fault Refusal :=
  withLock .encGetpos s encGetposEffect

/-- What ENC.SETPOS does once it has the lock: prevA and prevB are untouched. 41_encoder.md R141. -/
def encSetposEffect (value : Int) (s : State) : Host.Outcome State Fault Refusal :=
  .next (State.respond { s with position := positionOperand s.cfg.width value } .ok 0)

/-- ENC.SETPOS. 41_encoder.md R141. -/
def execEncSetpos (value : Int) (s : State) : Host.Outcome State Fault Refusal :=
  withLock (.encSetpos value) s (encSetposEffect value)

/-- ENC.GETBTN: it takes no lock and does not hold. 41_encoder.md R142. -/
def execEncGetbtn (s : State) : Host.Outcome State Fault Refusal :=
  if s.encCfg then
    match gpioRead s .btn with
    | none => .next (s.raise .hwReadError)
    | some v => .next (s.respond .ok (levelData v))
  else .next (s.raise .notInitialized)

/-- What ENC.SHUTDOWN does once it has the lock. 41_encoder.md R143. -/
def encShutdownEffect (s : State) : Host.Outcome State Fault Refusal :=
  if s.encCfg then
    .next (State.respond
      { s with
        encCfg := false
        edgePending := false
        claimed := releaseAll s.claimed (encPinList s.cfg.pins) } .ok 0)
  else .next (s.raise .notInitialized)

/-- ENC.SHUTDOWN. 41_encoder.md R143. -/
def execEncShutdown (s : State) : Host.Outcome State Fault Refusal :=
  withLock .encShutdown s encShutdownEffect

end Sys2Proof.Machine
end

