-- ==== Sys2Proof/Machine/Keypad.lean ====
section
/-! DEFINITION. Unit KP: KP.INIT, KP.SCAN with its micro-steps, KP.SHUTDOWN. 40_keypad.md. -/

namespace Sys2Proof.Machine

/-- KP.INIT. 40_keypad.md R103, R104. -/
def execKpInit (s : State) : Host.Outcome State Fault Refusal :=
  match claimAll s.cfg s.claimed (kpPinList s.cfg.pins) with
  | .error _ => .next (s.raise .hwInitError)
  | .ok m =>
    .next (State.respond
      { s with
        claimed := m
        rowDrive := Quad.all4 (.level (!s.cfg.rowActive))
        kpCfg := true } .ok 0)

/-- The end of a scan that failed: `seq <- IDLE` and (HW_READ_ERROR, 0). 40_keypad.md R107, R108.
`keys_acc` is discarded, which no later step can tell from its being kept (log 18). -/
def abortScan (s : State) : State := State.raise { s with seq := .idle } .hwReadError

/-- The issue step of KP.SCAN. 40_keypad.md R106, R109. -/
def scanIssue (s : State) : State :=
  if s.kpCfg then State.accept { s with keysAcc := 0, seq := .run 0 0 .act } .kpScan
  else s.raise .notInitialized

/-- Micro-step ACT of row r. 40_keypad.md R106, R108. -/
def scanActivate (s : State) (r : Fin 4) : State :=
  match gpioWrite s r s.cfg.rowActive with
  | none => abortScan s
  | some s' => { s' with seq := .run r 0 .sample }

/-- Where a scan goes after sample (r, c). 40_keypad.md R106. -/
def afterSample (r c : Fin 4) : Seq :=
  if c = 3 then .run r 3 .deact else .run r (c + 1) .sample

/-- Micro-step SAMPLE of column c in row r. 40_keypad.md R106, R107. -/
def scanSample (s : State) (r c : Fin 4) : State :=
  match gpioRead s (.col c) with
  | none => abortScan (s.deactivateRow r)
  | some v =>
    { s with
      keysAcc := if v = s.cfg.colActive then setKey s.keysAcc r c else s.keysAcc
      seq := afterSample r c }

/-- Micro-step DEACT of row r; after row 3 the scan answers. 40_keypad.md R106. -/
def scanDeactivate (s : State) (r : Fin 4) : State :=
  if r = 3 then
    State.respond { s.deactivateRow r with seq := .idle } .ok (keysData s.keysAcc)
  else { s.deactivateRow r with seq := .run (r + 1) 0 .act }

/-- KP.SCAN: its issue step when no scan is in progress, else the micro-step `seq` selects.
40_keypad.md R105, R106. -/
def execKpScan (s : State) : Host.Outcome State Fault Refusal :=
  match s.seq with
  | .idle => .next (scanIssue s)
  | .run r _ .act => .next (scanActivate s r)
  | .run r c .sample => .next (scanSample s r c)
  | .run r _ .deact => .next (scanDeactivate s r)

/-- KP.SHUTDOWN. 40_keypad.md R113. -/
def execKpShutdown (s : State) : Host.Outcome State Fault Refusal :=
  if s.kpCfg then
    .next (State.respond
      { s with
        rowDrive := Quad.all4 .z
        claimed := releaseAll s.claimed (kpPinList s.cfg.pins)
        kpCfg := false } .ok 0)
  else .next (s.raise .notInitialized)

end Sys2Proof.Machine
end

