-- ==== Sys2Proof/Machine/Dispatch.lean ====
section
/-! DEFINITION. One arm per instruction. -/

namespace Sys2Proof.Machine

def exec (i : Instr) (s : State) : Host.Outcome State Fault Refusal :=
  match i with
  | .kpInit => Sys2Proof.Machine.execKpInit s
  | .kpScan => Sys2Proof.Machine.execKpScan s
  | .kpShutdown => Sys2Proof.Machine.execKpShutdown s
  | .encInit => Sys2Proof.Machine.execEncInit s
  | .encGetpos => Sys2Proof.Machine.execEncGetpos s
  | .encSetpos value => Sys2Proof.Machine.execEncSetpos value s
  | .encGetbtn => Sys2Proof.Machine.execEncGetbtn s
  | .encShutdown => Sys2Proof.Machine.execEncShutdown s
  | .encEdge => Sys2Proof.Machine.execEncEdge s

end Sys2Proof.Machine
end

