-- ==== Sys2Proof/Machine/Agents.lean ====
section
/-! DEFINITION. What a turn does: a step of HOST, of EDGE or of ENV, or reset. 10_state.md R40. -/

namespace Sys2Proof.Machine

/-- HOST's issue of a command word: only while `host_busy = 0`, otherwise HOST does not issue and
there is no step (log 4). An illegal word is answered at once, before any hold, and changes
nothing. 30_encoding.md R74, R77; 60_exceptions.md R174, R178. -/
def issueCommand (w : Nat) (s : State) : Host.Outcome State Fault Refusal :=
  if s.hostBusy then .next s
  else
    match decodeHostWord s.cfg.width w with
    | .error _ => .next (s.raise .illegalCommand)
    | .ok i => exec i s

/-- The accepted command's next step: a micro-step of KP.SCAN, or a held command's next attempt.
With no accepted command there is no step (log 4). 30_encoding.md R74; 41_encoder.md R144. -/
def continueCommand (s : State) : Host.Outcome State Fault Refusal :=
  if s.hostBusy then
    match s.cmd with
    | some i => exec i s
    | none => .next s
  else .next s

/-- One turn. 10_state.md R40; 70_reset_and_hazards.md R200. -/
def takeTurn (t : Turn) (s : State) : Host.Outcome State Fault Refusal :=
  match t with
  | .issue w d => issueCommand w (s.withDraw d)
  | .cont d => continueCommand (s.withDraw d)
  | .edge d => exec .encEdge (s.withDraw d)
  | .env e => .next (s.envStep e)
  | .reset => .next s.applyReset

/-- The turn to be taken: the first listed one, else a free one. Log 3. -/
def nextTurn (s : State) : Turn :=
  match s.schedule with
  | t :: _ => t
  | [] => Config.freeTurn s.clock

/-- The turn is used up. Log 3. -/
def State.advance (s : State) : State :=
  match s.schedule with
  | _ :: rest => { s with schedule := rest }
  | [] => { s with clock := s.clock + 1 }

/-- The instruction word `w` placed so that the very next step runs it (log 14). A word of the
host space is issued by HOST, who may issue only while no command is in progress. The internal
event `0x80` is not issued by anyone: the core starts it when 41_encoder.md R136's condition
holds, so the condition is made to hold and the turn is EDGE's. The answer to the step's pin
access, which 20_memory.md R52 and R55 leave free, is the draw the state holds: a failing draw
there fails the placed word's access. DESIGN CHOICE, log 14. -/
def State.placeWord (s : State) (w : Nat) : State :=
  match decodeWord s.cfg.width w with
  | .ok .encEdge =>
    { s with
      encCfg := true
      edgePending := true
      encPhase := .idle
      schedule := .edge s.draw :: s.schedule }
  | .ok _ | .error _ =>
    { s with
      hostBusy := false
      cmd := none
      schedule := .issue w s.draw :: s.schedule }

end Sys2Proof.Machine
end

