-- ==== Sys2Proof/Machine/Step.lean ====
section
/-! DEFINITION. One step of the machine, and the placing of an instruction where the next step
fetches it. -/

namespace Sys2Proof.Machine

/-- One step of one agent. 10_state.md R40. -/
def step (s : State) : Host.Outcome State Fault Refusal := takeTurn (nextTurn s) s.advance

/-- The instruction word `w`, its bits from `nbits` up being 0, placed for the very next step
(the host's fixed name; log 14). -/
def State.withFetchWord (s : State) (nbits w : Nat) : State :=
  s.placeWord (w % 2 ^ nbits)

end Sys2Proof.Machine
end

