-- ==== Sys2Proof/Machine/Assembler.lean ====
section
/-! DEFINITION. The assembler's syntax: one line of text to one command word. 30_encoding.md R80,
R81. Text is a list of characters. -/

namespace Sys2Proof.Machine

/-- What the assembler makes of a line. -/
inductive AsmResult (n : Nat) where
  /-- The line holds blanks and a comment at most. -/
  | nothing
  /-- The line is a command. -/
  | command (w : Command n)
  /-- The assembler refuses the line. -/
  | refused
deriving DecidableEq, Repr

/-- A space or a tab separates the words of a line (log 17). -/
def isBlank (c : Char) : Bool := c = ' ' || c = '\t'

/-- The line up to its comment, which starts with `;`. 30_encoding.md R80. -/
def stripComment (line : List Char) : List Char := line.takeWhile (fun c => c ≠ ';')

/-- The words of a line; `cur` is the word being read, last character first. -/
def lineWords (cur : List Char) : List Char → List (List Char)
  | [] => if cur = [] then [] else [cur.reverse]
  | c :: rest =>
    if isBlank c then
      if cur = [] then lineWords [] rest else cur.reverse :: lineWords [] rest
    else lineWords (c :: cur) rest

/-- The value of a hexadecimal digit, of either case (log 17). -/
def hexDigit (c : Char) : Option Nat :=
  let n := c.toNat
  if 48 ≤ n ∧ n ≤ 57 then some (n - 48)
  else if 65 ≤ n ∧ n ≤ 70 then some (n - 55)
  else if 97 ≤ n ∧ n ≤ 102 then some (n - 87)
  else none

/-- The value of a decimal digit. -/
def decDigit (c : Char) : Option Nat :=
  let n := c.toNat
  if 48 ≤ n ∧ n ≤ 57 then some (n - 48) else none

/-- The number a list of digits writes, after the digits worth `acc`. -/
def numberFrom (base : Nat) (digit : Char → Option Nat) (acc : Nat) : List Char → Option Nat
  | [] => some acc
  | c :: rest =>
    match digit c with
    | none => none
    | some d => numberFrom base digit (base * acc + d) rest

/-- At least one digit. -/
def number (base : Nat) (digit : Char → Option Nat) (ds : List Char) : Option Nat :=
  if ds = [] then none else numberFrom base digit 0 ds

/-- `<imm>`: a signed decimal integer, or `0x` and at most `POS_WIDTH/4` hex digits read as the
raw bit pattern. 30_encoding.md R80; log 17. -/
def parseImmediate (n : Nat) (word : List Char) : Option Int :=
  match word with
  | '0' :: 'x' :: ds =>
    if ds.length ≤ n / 4 then
      (number 16 hexDigit ds).map (fun k => (BitVec.ofNat n k).toInt)
    else none
  | '-' :: ds => (number 10 decDigit ds).map (fun n => -(n : Int))
  | ds => (number 10 decDigit ds).map (fun n => (n : Int))

/-- The mnemonics that take no operand, ENC.ZERO among them (R81). ENC.EDGE has no form.
30_encoding.md R80. -/
def plainMnemonic (word : List Char) : Option Instr :=
  if word = ['K', 'P', '.', 'I', 'N', 'I', 'T'] then some .kpInit
  else if word = ['K', 'P', '.', 'S', 'C', 'A', 'N'] then some .kpScan
  else if word = ['K', 'P', '.', 'S', 'H', 'U', 'T', 'D', 'O', 'W', 'N'] then some .kpShutdown
  else if word = ['E', 'N', 'C', '.', 'I', 'N', 'I', 'T'] then some .encInit
  else if word = ['E', 'N', 'C', '.', 'G', 'E', 'T', 'P', 'O', 'S'] then some .encGetpos
  else if word = ['E', 'N', 'C', '.', 'G', 'E', 'T', 'B', 'T', 'N'] then some .encGetbtn
  else if word = ['E', 'N', 'C', '.', 'S', 'H', 'U', 'T', 'D', 'O', 'W', 'N'] then some .encShutdown
  else if word = ['E', 'N', 'C', '.', 'Z', 'E', 'R', 'O'] then some (.encSetpos 0)
  else none

/-- The one mnemonic with an operand. 30_encoding.md R80. -/
def setposMnemonic : List Char := ['E', 'N', 'C', '.', 'S', 'E', 'T', 'P', 'O', 'S']

/-- The instruction a line's words write. An operand on a format-C mnemonic, an operand out of
range and every other line are refused. 30_encoding.md R80. -/
def parseWords (n : Nat) : List (List Char) → Option Instr
  | [word] => plainMnemonic word
  | [word, imm] =>
    if word = setposMnemonic then
      match parseImmediate n imm with
      | some v => if operandInRange n v then some (.encSetpos v) else none
      | none => none
    else none
  | _ => none

/-- One line. 30_encoding.md R80, R81. -/
def assembleLine (n : Nat) (line : List Char) : AsmResult n :=
  match lineWords [] (stripComment line) with
  | [] => .nothing
  | words =>
    match parseWords n words with
    | some i => .command (encode n i)
    | none => .refused

/-- The character of a hexadecimal digit. -/
def hexChar (d : BitVec 4) : Char :=
  if d.toNat < 10 then Char.ofNat (48 + d.toNat) else Char.ofNat (55 + d.toNat)

/-- The character of a decimal digit. -/
def decChar (d : Nat) : Char := Char.ofNat (48 + d)

/-- The digits of a number base 10, most significant first, before the digits `acc`; `fuel` is at
least how many there are. -/
def decimalFrom : Nat → Nat → List Char → List Char
  | 0, _, acc => acc
  | fuel + 1, k, acc =>
    if k < 10 then decChar k :: acc
    else decimalFrom fuel (k / 10) (decChar (k % 10) :: acc)

/-- A signed decimal integer. 30_encoding.md R80. -/
def decimal : Int → List Char
  | .ofNat k => decimalFrom (k + 1) k []
  | .negSucc k => '-' :: decimalFrom (k + 2) (k + 1) []

/-- The line of ENC.SETPOS with the operand word `imm`. 30_encoding.md R80. -/
def setposLine (imm : List Char) : List Char := setposMnemonic ++ [' '] ++ imm

/-- The line that writes a host command, its operand in decimal; ENC.EDGE has none.
30_encoding.md R80. -/
def lineOf : Instr → Option (List Char)
  | .kpInit => some ['K', 'P', '.', 'I', 'N', 'I', 'T']
  | .kpScan => some ['K', 'P', '.', 'S', 'C', 'A', 'N']
  | .kpShutdown => some ['K', 'P', '.', 'S', 'H', 'U', 'T', 'D', 'O', 'W', 'N']
  | .encInit => some ['E', 'N', 'C', '.', 'I', 'N', 'I', 'T']
  | .encGetpos => some ['E', 'N', 'C', '.', 'G', 'E', 'T', 'P', 'O', 'S']
  | .encSetpos v => some (setposLine (decimal v))
  | .encGetbtn => some ['E', 'N', 'C', '.', 'G', 'E', 'T', 'B', 'T', 'N']
  | .encShutdown => some ['E', 'N', 'C', '.', 'S', 'H', 'U', 'T', 'D', 'O', 'W', 'N']
  | .encEdge => none

end Sys2Proof.Machine
end

