-- ==== Sys2Proof/Machine/Observe.lean ====
section
/-! DEFINITION. What is read off the machine from outside: the labels of a scan result, and when
a run is over. -/

namespace Sys2Proof.Machine

/-- `KEYMAP(r, c)`. 40_keypad.md R100. -/
def keyLabel (km : KeyMap) (r c : Fin 4) : KeyLabel := (km.grid.get r).get c

/-- The 16 places in scan order: (0,0), (0,1), ..., (3,3). 20_memory.md R62. -/
def places : List (Fin 4 × Fin 4) := lines.flatMap (fun r => lines.map (fun c => (r, c)))

/-- `labels(KEYS)`, in scan order. 40_keypad.md R102. -/
def labels (km : KeyMap) (k : Keys) : List KeyLabel :=
  (places.filter (fun p => k.getLsbD (keyBit p.1 p.2))).map (fun p => keyLabel km p.1 p.2)

/-- A turn in which HOST issues a command. -/
def isIssue : Turn → Bool
  | .issue _ _ => true
  | .cont _ | .edge _ | .env _ | .reset => false

/-- The run is over: HOST has issued its last command and has its response, no scan is in
progress, and no handler run is in progress or owed. It does not say that ENV is still. Whether
HOST has issued its last command is nothing the core holds, and the spec does not say how it is
known, so it is an argument. DESIGN CHOICE, log 25. 70_reset_and_hazards.md R215. -/
def runIsOver (lastIssued : Bool) (s : State) : Bool :=
  lastIssued && !s.hostBusy && decide (s.seq = .idle) &&
    (decide (s.encPhase = .idle) && !s.edgePending || !s.encCfg)

/-- The simulator's draw: the access succeeds, and an undetermined column reads `COL_ACTIVE`.
20_memory.md R69 (informative: the model keeps every draw free). -/
def simulatorDraw (c : Config) : Draw := ⟨true, c.colActive⟩

end Sys2Proof.Machine
end

