-- ==== Sys2Proof/Safety.lean ====
section
/-! DEFINITION. The terms claims are stated in: the invariant, runs, what is enabled, fairness,
a faithful scan, and the accumulated delta. -/

namespace Sys2Proof.Machine

/-! ### The invariant -/

/-- The row lines when no row is active: driven to the inactive level once the unit is configured,
else not driven. 10_state.md R27, R28. -/
def restRows (s : State) : Quad Drive :=
  if s.kpCfg then Quad.all4 (.level (!s.cfg.rowActive)) else Quad.all4 .z

/-- The row lines at each point of a scan: row r is active from its ACT to its DEACT, no other row
ever is. 40_keypad.md R106; 10_state.md R28. -/
def expectedRows (s : State) : Quad Drive :=
  match s.seq with
  | .idle => restRows s
  | .run _ _ .act => restRows s
  | .run r _ .sample => (restRows s).set r (.level s.cfg.rowActive)
  | .run r _ .deact => (restRows s).set r (.level s.cfg.rowActive)

/-- What holds at reset and is kept by every step. -/
structure Inv (s : State) : Prop where
  /-- The position is a signed number of `POS_WIDTH` bits. 10_state.md R21. -/
  position : operandInRange s.cfg.width s.position = true
  /-- Every datum given has `DW` bits. 30_encoding.md R73. -/
  data : ∀ r ∈ s.responses, r.rdata < 2 ^ dataWidth s.cfg.width
  /-- The claim map is in its canonical form. -/
  claims : claimsCanonical s.claimed = true
  /-- `host_busy = 1` from an issue to its response. 30_encoding.md R74. -/
  busy : s.hostBusy = s.cmd.isSome
  /-- Only KP.SCAN and the commands that hold stay unanswered after their issue step.
  10_state.md R40. -/
  unanswered : ∀ i, s.cmd = some i → i = .kpScan ∨ i.takesLock = true
  /-- An operand that waits is one a command word can carry. 30_encoding.md R75. -/
  operand : ∀ i, s.cmd = some i → i.wellFormed s.cfg.width = true
  /-- A scan is in progress exactly while KP.SCAN is unanswered. 10_state.md R29. -/
  scan : s.cmd = some .kpScan ↔ s.seq ≠ .idle
  /-- A scan runs only on a configured keypad. 40_keypad.md R109. -/
  scanCfg : s.seq ≠ .idle → s.kpCfg = true
  /-- No row is active but the one being sampled. 10_state.md R28. -/
  rows : s.rowDrive = expectedRows s
  /-- A handler run is in progress only on a configured encoder. 41_encoder.md R136, R144. -/
  handler : s.encPhase ≠ .idle → s.encCfg = true
  /-- An edge is pending only on a configured encoder. 41_encoder.md R135. -/
  pending : s.edgePending = true → s.encCfg = true
  /-- A configured keypad has claimed its pins in their modes. 10_state.md R31. -/
  kpClaims : s.kpCfg = true → ∀ e ∈ kpPinList s.cfg.pins, claimMode s.claimed e.1 = some e.2
  /-- A configured encoder has claimed its pins in their modes. 10_state.md R31. -/
  encClaims : s.encCfg = true → ∀ e ∈ encPinList s.cfg.pins, claimMode s.claimed e.1 = some e.2
  /-- Nothing else is claimed. 10_state.md R31. -/
  ownClaims : ∀ p m, claimMode s.claimed p = some m →
    (s.kpCfg = true ∧ (p, m) ∈ kpPinList s.cfg.pins) ∨
    (s.encCfg = true ∧ (p, m) ∈ encPinList s.cfg.pins)

/-! ### When a claim fails -/

/-- A pin of the list does not exist, is claimed, is listed twice, or lacks its mode.
40_keypad.md R104; 41_encoder.md R134. -/
def claimMustFail (c : Config) (m : Claims) (l : List (PinId × PinMode)) : Prop :=
  (∃ e ∈ l, pinExists c e.1 = false) ∨ (∃ e ∈ l, (claimMode m e.1).isSome = true) ∨
  ¬ (l.map (fun e => e.1)).Nodup ∨ (∃ e ∈ l, pinSupports c e.1 e.2 = false)

/-! ### The graph of pressed keys -/

/-- A vertex of G: a row or a column. 20_memory.md R55. -/
inductive Vertex where
  | row (i : Fin 4)
  | col (j : Fin 4)
deriving DecidableEq, Repr

/-- G has an edge (row i, column j) for each pressed key (i, j), undirected. 20_memory.md R55. -/
def keyEdge (p : KeySet) : Vertex → Vertex → Prop
  | .row i, .col j => keyDown p i j = true
  | .col j, .row i => keyDown p i j = true
  | .row _, .row _ => False
  | .col _, .col _ => False

/-- Two vertices lie in one connected component of G. 20_memory.md R55. -/
def connected (p : KeySet) : Vertex → Vertex → Prop := Relation.ReflTransGen (keyEdge p)

/-- No column has pressed keys in two different rows. 40_keypad.md R112. -/
def noSharedColumn (p : KeySet) : Prop :=
  ∀ i j c : Fin 4, keyDown p i c = true → keyDown p j c = true → i = j

/-! ### Written numbers -/

/-- The number that digits write in a base, the most significant first. 30_encoding.md R80. -/
def digitsValue (base : Nat) (ds : List Nat) : Nat := ds.foldl (fun acc d => base * acc + d) 0

/-! ### Runs -/

/-- The state after a turn (`takeTurn` always answers a next state). -/
def afterTurn (s : State) (t : Turn) : State :=
  match takeTurn t s with
  | .next u => u
  | .fault _ => s
  | .refused _ => s

/-- The state after the turns of a list. -/
def afterTurns (s : State) (ts : List Turn) : State := ts.foldl afterTurn s

/-- The state after `n` turns of an endless choice of turns. -/
def stateAt (choice : Nat → Turn) (s : State) : Nat → State
  | 0 => s
  | n + 1 => afterTurn (stateAt choice s n) (choice n)

/-- The instruction a turn runs in a state, if it runs one. -/
def turnInstr (t : Turn) (s : State) : Option Instr :=
  match t with
  | .issue w _ => if s.hostBusy then none else (decodeHostWord s.cfg.width w).toOption
  | .cont _ => if s.hostBusy then s.cmd else none
  | .edge _ => some .encEdge
  | .env _ => none
  | .reset => none

/-! ### Enabled steps and fairness, 70_reset_and_hazards.md R214 -/

/-- An ENC.EDGE micro-step is enabled. 41_encoder.md R136, R137, R138. -/
def edgeEnabled (s : State) : Prop := handlerMayStart s = true ∨ s.encPhase ≠ .idle

/-- The accepted command's next step is enabled: a scan's micro-step always is, a command that
takes the lock only while no handler run is in progress. 41_encoder.md R144. -/
def commandEnabled (s : State) : Prop :=
  ∃ i, s.hostBusy = true ∧ s.cmd = some i ∧ (i.takesLock = true → s.encPhase = .idle)

/-- The turn is EDGE's. -/
def isEdge : Turn → Bool
  | .edge _ => true
  | .issue _ _ | .cont _ | .env _ | .reset => false

/-- The turn is the accepted command's. -/
def isCont : Turn → Bool
  | .cont _ => true
  | .issue _ _ | .edge _ | .env _ | .reset => false

/-- Fairness of an endless choice of turns: (a) EDGE is not passed over for ever while it is
enabled, unless reset intervenes; (b) nor is an accepted command whose next step is enabled;
(c) a held command steps in the end if `enc_phase` is IDLE infinitely often. ENV is under no
fairness. R214 speaks of reset in (a) only. A reset abandons the command in progress (R200), which
then is not enabled and cannot step: so (b) needs no word of it, and (c) is excused by one. DEDUCED,
log 19. 70_reset_and_hazards.md R214. -/
structure Fair (choice : Nat → Turn) (s : State) : Prop where
  edge : ∀ n, ∃ m, n ≤ m ∧
    (¬ edgeEnabled (stateAt choice s m) ∨ isEdge (choice m) = true ∨ choice m = .reset)
  command : ∀ n, ∃ m, n ≤ m ∧
    (¬ commandEnabled (stateAt choice s m) ∨ isCont (choice m) = true)
  held : ∀ n i, (stateAt choice s n).cmd = some i → i.takesLock = true →
    (∀ k, n ≤ k → ∃ m, k ≤ m ∧ (stateAt choice s m).encPhase = .idle) →
    ∃ m, n ≤ m ∧ (choice m = .reset ∨
      (isCont (choice m) = true ∧ (stateAt choice s m).cmd = some i ∧
        (stateAt choice s m).encPhase = .idle))

/-! ### A faithful scan -/

/-- How many samples a scan has taken. 40_keypad.md R106. -/
def samplesTaken : Seq → Nat
  | .idle => 0
  | .run r _ .act => 4 * r.val
  | .run r c .sample => 4 * r.val + c.val
  | .run r _ .deact => 4 * r.val + 4

/-- The bits of `keys` below `n`. -/
def keysBelow (keys : Keys) (n : Nat) : Keys := keys &&& BitVec.ofNat 16 (2 ^ n - 1)

/-- A scan is in progress and has found so far exactly the keys of `p` it has sampled.
40_keypad.md R112. -/
def scanFaithful (p : KeySet) (s : State) : Prop :=
  s.env.pressed = p ∧ s.cmd = some .kpScan ∧ s.seq ≠ .idle ∧
  s.keysAcc = keysBelow (keysOf p) (samplesTaken s.seq)

/-- A turn of EDGE, of the accepted command or of ENV that leaves the keys `p` pressed. -/
def keepsKeys (p : KeySet) : Turn → Bool
  | .cont _ => true
  | .edge _ => true
  | .env e => decide (e.pressed = p)
  | .issue _ _ => false
  | .reset => false

/-- No pin access of the turn fails. 20_memory.md R52, R53. -/
def accessSucceeds (c : Config) : Turn → Bool
  | .cont d => !c.ioFaults || d.ok
  | .edge d => !c.ioFaults || d.ok
  | .issue _ d => !c.ioFaults || d.ok
  | .env _ => true
  | .reset => true

/-! ### The accumulated delta, 41_encoder.md R147 -/

/-- What a turn adds to the position as a commit of ENC.EDGE. -/
def committedDelta (t : Turn) (s : State) : Int :=
  match turnInstr t s, s.encPhase with
  | some .encEdge, .gotB => deltaValue (tableEntry (tableIndex s.prevA s.prevB s.latchA s.latchB))
  | _, _ => 0

/-- The deltas committed in the first `n` turns. -/
def deltaSum (choice : Nat → Turn) (s : State) : Nat → Int
  | 0 => 0
  | n + 1 => deltaSum choice s n + committedDelta (choice n) (stateAt choice s n)

/-- ENV turns lines A and B to the given levels, and one whole handler run follows, its reads
answered by the draw `d`. -/
def turnAndRun (e : Env) (d : Draw) (a b : Level) : List Turn :=
  [.env { e with lvlA := a, lvlB := b }, .edge d, .edge d, .edge d]

/-- A turn that runs ENC.SETPOS or ENC.INIT, or is a reset. -/
def mayRewritePosition (t : Turn) (s : State) : Bool :=
  match t, turnInstr t s with
  | .reset, _ => true
  | _, some (.encSetpos _) => true
  | _, some .encInit => true
  | _, _ => false

end Sys2Proof.Machine
end

