-- ==== Sys2Proof/Certificates/Slice0/Obligations.lean ====
section
/-! DEFINITION. The statements for the provers. -/

open Sys2Proof Sys2Proof.Machine

/-! ### Encoding, 30_encoding.md -/

/-- R82: what the host port's decoder makes of every word, one clause per row of its table. -/
def Obligations.HostDecoderFollowsOpcodeMap : Prop :=
  ∀ (n : Nat) (w : Command n),
    (decodeHost w = .ok .kpInit ↔ opcField w = 0x01#8) ∧
    (decodeHost w = .ok .kpScan ↔ opcField w = 0x02#8) ∧
    (decodeHost w = .ok .kpShutdown ↔ opcField w = 0x03#8) ∧
    (decodeHost w = .ok .encInit ↔ opcField w = 0x11#8) ∧
    (decodeHost w = .ok .encGetpos ↔ opcField w = 0x12#8) ∧
    (∀ v, decodeHost w = .ok (.encSetpos v) ↔
      opcField w = 0x13#8 ∧ v = (w.extractLsb' 8 n).toInt) ∧
    (decodeHost w = .ok .encGetbtn ↔ opcField w = 0x14#8) ∧
    (decodeHost w = .ok .encShutdown ↔ opcField w = 0x15#8) ∧
    decodeHost w ≠ .ok .encEdge ∧
    ((∃ e, decodeHost w = .error e) ↔
      opcField w ∉ [0x01#8, 0x02#8, 0x03#8, 0x11#8, 0x12#8, 0x13#8, 0x14#8, 0x15#8])

/-- R70, R72, R75, R80: at every width, every instruction that has an encoding is read back from
it with its operand, by the whole map, and by the host port when it is a host command. -/
def Obligations.DecodeOfEncodeIsTheInstruction : Prop :=
  ∀ (n : Nat) (i : Instr), 2 ≤ n → i.wellFormed n = true →
    decode (encode n i) = .ok i ∧ (i.hostCommand = true → decodeHost (encode n i) = .ok i)

/-- R70, R71: what a word decodes to is well formed, and encodes to the same word but for the
DATA of a word that has no operand. -/
def Obligations.EncodeOfDecodeIsTheCanonicalWord : Prop :=
  ∀ (n : Nat) (w : Command n) (i : Instr), decode w = .ok i →
    i.wellFormed n = true ∧ encode n i = canonicalWord w

/-- R71, R77: outside ENC.SETPOS the DATA bits change nothing, so no value of DATA makes a
command illegal. -/
def Obligations.DataIgnoredOutsideSetpos : Prop :=
  ∀ (n : Nat) (w w' : Command n), opcField w = opcField w' →
    (opcField w ≠ 0x13#8 → decode w = decode w' ∧ decodeHost w = decodeHost w') ∧
    ((∃ e, decodeHost w = .error e) ↔ (∃ e, decodeHost w' = .error e))

/-- A sanity statement: words written out from the encodings of 30_encoding.md R72 and
95_test_vectors.md 2.1 decode to the instructions they stand for. -/
def Obligations.WrittenOutWordsDecode : Prop :=
  decode 0x0000000001#40 = .ok .kpInit ∧
  decode 0xFFFFFFFF02#40 = .ok .kpScan ∧
  decode 0x0000000003#40 = .ok .kpShutdown ∧
  decode 0x0000000011#40 = .ok .encInit ∧
  decode 0x1234567812#40 = .ok .encGetpos ∧
  decode 0xFFFFFFFF13#40 = .ok (.encSetpos (-1)) ∧
  decode 0x8000000013#40 = .ok (.encSetpos (-2147483648)) ∧
  decode 0x0000000014#40 = .ok .encGetbtn ∧
  decode 0x0000000015#40 = .ok .encShutdown ∧
  decode 0x0000000080#40 = .ok .encEdge ∧
  decodeHost 0x0000000080#40 = .error .internalSpace ∧
  decode 0x0000000016#40 = .error .unassigned

/-- R80: the line that writes a host command assembles to its encoding, and ENC.EDGE has none; a
signed decimal operand is the number it writes, refused out of range; `0x` and at most
POS_WIDTH / 4 hex digits are the raw bit pattern; and what any line assembles to is the encoding of
a host command, its OPC one of the eight. R80 does not speak of leading zeros: that the decimal and
hex clauses take them in is the model's choice (DESIGN CHOICE, log 17). R80's refusal of an operand
on a format-C mnemonic is not stated here. -/
def Obligations.AssemblerWritesTheEncoding : Prop :=
  ∀ n : Nat, 2 ≤ n →
    (∀ (i : Instr) (l : List Char), i.wellFormed n = true → lineOf i = some l →
      assembleLine n l = .command (encode n i)) ∧
    (∀ i : Instr, lineOf i = none ↔ i = .encEdge) ∧
    (∀ ds : List (Fin 10), ds ≠ [] →
      assembleLine n (setposLine (ds.map (fun d => decChar d.val))) =
        (if operandInRange n (digitsValue 10 (ds.map (fun d => d.val)))
          then .command (encode n (.encSetpos (digitsValue 10 (ds.map (fun d => d.val)))))
          else .refused) ∧
      assembleLine n (setposLine ('-' :: ds.map (fun d => decChar d.val))) =
        (if operandInRange n (-digitsValue 10 (ds.map (fun d => d.val)))
          then .command (encode n (.encSetpos (-digitsValue 10 (ds.map (fun d => d.val)))))
          else .refused)) ∧
    (∀ ds : List (BitVec 4), ds ≠ [] →
      assembleLine n (setposLine ('0' :: 'x' :: ds.map hexChar)) =
        (if ds.length ≤ n / 4
          then .command (BitVec.ofNat n (digitsValue 16 (ds.map (fun d => d.toNat))) ++ 0x13#8)
          else .refused)) ∧
    (∀ (line : List Char) (w : Command n), assembleLine n line = .command w →
      opcField w ∈ [0x01#8, 0x02#8, 0x03#8, 0x11#8, 0x12#8, 0x13#8, 0x14#8, 0x15#8] ∧
      ∃ i : Instr, i.hostCommand = true ∧ i.wellFormed n = true ∧ w = encode n i)

/-- R81: ENC.ZERO is ENC.SETPOS 0, the word 0x0000000013 at `POS_WIDTH` 32. -/
def Obligations.EncZeroIsSetposZero : Prop :=
  (∀ n : Nat, assembleLine n ['E', 'N', 'C', '.', 'Z', 'E', 'R', 'O'] =
    .command (encode n (.encSetpos 0))) ∧
  encode 32 (.encSetpos 0) = 0x0000000013#40

/-! ### The step -/

/-- A step runs the instruction its turn names: the command HOST issues, the accepted command's
next step, or the handler's micro-step. The turn lists, and the free turn after them, are the
model's (log 3). -/
def Obligations.StepRunsTheDecodedInstruction : Prop :=
  ∀ (s : State) (rest : List Turn) (d : Draw),
    (∀ w i, s.schedule = .issue w d :: rest → s.hostBusy = false →
      decodeHostWord s.cfg.width w = .ok i →
      step s = exec i { s with schedule := rest, draw := d }) ∧
    (∀ i, s.schedule = .cont d :: rest → s.hostBusy = true → s.cmd = some i →
      step s = exec i { s with schedule := rest, draw := d }) ∧
    (s.schedule = .edge d :: rest → step s = exec .encEdge { s with schedule := rest, draw := d }) ∧
    (∀ e, s.schedule = .env e :: rest →
      step s = .next (State.envStep { s with schedule := rest } e)) ∧
    (s.schedule = .reset :: rest → step s = .next (State.applyReset { s with schedule := rest })) ∧
    (s.schedule = [] →
      step s = takeTurn (Config.freeTurn s.clock) { s with clock := s.clock + 1 })

/-- The placing of a word (log 14): the very next step runs the instruction the word decodes to,
in every state and with the draw the state holds. -/
def Obligations.PlacedWordRunsNext : Prop :=
  ∀ (s : State) (nbits w : Nat) (i : Instr),
    decodeWord s.cfg.width (w % 2 ^ nbits) = .ok i →
    (s.cfg.width = 32 → decodeTableWord nbits w = some i) ∧
    (i ≠ .encEdge →
      step (s.withFetchWord nbits w) = exec i { s with hostBusy := false, cmd := none }) ∧
    (i = .encEdge →
      step (s.withFetchWord nbits w) =
        exec .encEdge { s with encCfg := true, edgePending := true, encPhase := .idle })

/-- R77, R174, R178: an illegal word is answered at once, whatever the lock, and changes no
register, claim or pin. -/
def Obligations.IllegalCommandChangesNothing : Prop :=
  ∀ (s : State) (w : Nat) (d : Draw), s.hostBusy = false →
    opcField (commandWord s.cfg.width w) ∉
      [0x01#8, 0x02#8, 0x03#8, 0x11#8, 0x12#8, 0x13#8, 0x14#8, 0x15#8] →
    takeTurn (.issue w d) s =
      .next { s with
        draw := d
        hostBusy := false
        cmd := none
        responses := s.responses ++ [⟨.illegalCommand, 0⟩] }

/-- The model's choice (log 4): a turn whose step is not enabled is no step. HOST does not issue
while a command is in progress (30_encoding.md R74), and step 1 of ENC.EDGE starts only under
41_encoder.md R136's condition. -/
def Obligations.DisabledTurnIsNoStep : Prop :=
  ∀ (s : State) (w : Nat) (d : Draw),
    (s.hostBusy = true → takeTurn (.issue w d) s = .next { s with draw := d }) ∧
    (s.hostBusy = false → takeTurn (.cont d) s = .next { s with draw := d }) ∧
    (s.encPhase = .idle → ¬ (s.encCfg = true ∧ s.edgePending = true) →
      takeTurn (.edge d) s = .next { s with draw := d })

/-- No step stops the machine (00_scope.md R14 as the model reads it, log 23). -/
def Obligations.EveryStepAnswersANextState : Prop :=
  (∀ s : State, ∃ u, step s = .next u) ∧
  (∀ (i : Instr) (s : State), ∃ u, exec i s = .next u)

/-- No step writes the configuration, the key map included (10_state.md R32). -/
def Obligations.ConfigurationIsFixed : Prop :=
  ∀ s u : State, step s = .next u → u.cfg = s.cfg

/-- The invariant holds after reset, in every build and every state of ENV. -/
def Obligations.ResetMeetsTheInvariant : Prop :=
  Inv State.reset ∧ ∀ (c : Config) (e : Env), Inv (State.resetOf c e)

/-- The invariant is kept by every step of every agent. -/
def Obligations.EveryStepKeepsTheInvariant : Prop :=
  ∀ s u : State, Inv s → step s = .next u → Inv u

/-- R39: the values reset gives, in every build and every state of ENV. The latches and
`keys_acc`, which the spec leaves open, are not in it. -/
def Obligations.ResetValues : Prop :=
  ∀ (c : Config) (e : Env),
    (State.resetOf c e).position = 0 ∧
    (State.resetOf c e).prevA = false ∧ (State.resetOf c e).prevB = false ∧
    (State.resetOf c e).edgePending = false ∧ (State.resetOf c e).encPhase = .idle ∧
    (State.resetOf c e).encCfg = false ∧ (State.resetOf c e).encFault = false ∧
    (State.resetOf c e).kpCfg = false ∧
    (∀ r, (State.resetOf c e).rowDrive.get r = .z) ∧
    (State.resetOf c e).seq = .idle ∧ (State.resetOf c e).claimed = [] ∧
    (State.resetOf c e).hostBusy = false ∧
    (State.resetOf c e).env = e ∧ (State.resetOf c e).cfg = c

/-- R200: reset at any time sets every register the spec gives a value for in one step, gives no
response, and leaves ENV's state. That the response list stays is the model's choice (log 12). -/
def Obligations.ResetEventSetsEveryRegister : Prop :=
  ∀ s u : State, takeTurn .reset s = .next u →
    u.position = 0 ∧ u.prevA = false ∧ u.prevB = false ∧ u.edgePending = false ∧
    u.encPhase = .idle ∧ u.encCfg = false ∧ u.encFault = false ∧ u.kpCfg = false ∧
    (∀ r, u.rowDrive.get r = .z) ∧ u.seq = .idle ∧ u.claimed = [] ∧ u.hostBusy = false ∧
    u.cmd = none ∧ u.responses = s.responses ∧ u.env = s.env ∧ u.cfg = s.cfg

/-! ### Pins and claims, 20_memory.md -/

/-- R54: ClaimAll fails exactly on a missing, claimed, repeated or unsuitable pin, and else claims
every pair of the list and touches no other pin. -/
def Obligations.ClaimAllIsAllOrNothing : Prop :=
  ∀ (c : Config) (m : Claims) (l : List (PinId × PinMode)),
    ((∃ f, claimAll c m l = .error f) ↔ claimMustFail c m l) ∧
    (∀ m', claimAll c m l = .ok m' →
      (∀ e ∈ l, claimMode m' e.1 = some e.2) ∧
      (∀ p, p ∉ l.map (fun e => e.1) → claimMode m' p = claimMode m p))

/-- R54: Release removes exactly the listed pins. -/
def Obligations.ReleaseRemovesTheListedPins : Prop :=
  ∀ (m : Claims) (l : List (PinId × PinMode)) (p : PinId),
    (p ∈ l.map (fun e => e.1) → claimMode (releaseAll m l) p = none) ∧
    (p ∉ l.map (fun e => e.1) → claimMode (releaseAll m l) p = claimMode m p)

/-- R53: only an activating write may fail, only under IO_FAULTS, and it then leaves the row. -/
def Obligations.OnlyActivatingWritesFail : Prop :=
  ∀ (s : State) (r : Fin 4) (v : Level),
    (v = s.cfg.rowActive → s.cfg.ioFaults = true → s.draw.ok = false → gpioWrite s r v = none) ∧
    (v ≠ s.cfg.rowActive ∨ s.cfg.ioFaults = false ∨ s.draw.ok = true →
      gpioWrite s r v = some { s with rowDrive := s.rowDrive.set r (.level v) })

/-- R52: without IO_FAULTS every read succeeds, with it the draw says, and a successful read of
A, B or the button answers the line's level at the instant of the read. -/
def Obligations.ReadsAnswerTheLiveLevel : Prop :=
  ∀ s : State,
    (s.cfg.ioFaults = false ∨ s.draw.ok = true →
      gpioRead s .a = some s.env.lvlA ∧ gpioRead s .b = some s.env.lvlB ∧
      gpioRead s .btn = some s.env.lvlBtn ∧
      ∀ c, gpioRead s (.col c) =
        some (columnLevel s.cfg s.rowDrive s.env.pressed s.draw.level c)) ∧
    (s.cfg.ioFaults = true → s.draw.ok = false → ∀ l, gpioRead s l = none)

/-- R52, R53: a row line the core drives is claimed as an output, during a scan and between scans;
the row and the column of a scan's triple are claimed in their modes; and no instruction's result
depends on the level of a line that is not claimed in its input mode (on the pressed keys, for a
column). -/
def Obligations.CoreTouchesOnlyClaimedPins : Prop :=
  ∀ s : State, Inv s →
    (∀ r, s.rowDrive.get r ≠ .z → claimMode s.claimed (s.cfg.pins.row.get r) = some .out) ∧
    (∀ r c k, s.seq = .run r c k →
      claimMode s.claimed (s.cfg.pins.row.get r) = some .out ∧
      claimMode s.claimed (s.cfg.pins.col.get c) = some .inp) ∧
    (∀ (i : Instr) (u : State), exec i s = .next u →
      ((∃ c, claimMode s.claimed (s.cfg.pins.col.get c) ≠ some .inp) →
        ∀ p, exec i { s with env := { s.env with pressed := p } } =
          .next { u with env := { u.env with pressed := p } }) ∧
      (claimMode s.claimed s.cfg.pins.a ≠ some .inEdgePu →
        ∀ l, exec i { s with env := { s.env with lvlA := l } } =
          .next { u with env := { u.env with lvlA := l } }) ∧
      (claimMode s.claimed s.cfg.pins.b ≠ some .inEdgePu →
        ∀ l, exec i { s with env := { s.env with lvlB := l } } =
          .next { u with env := { u.env with lvlB := l } }) ∧
      (claimMode s.claimed s.cfg.pins.btn ≠ some .inPlain →
        ∀ l, exec i { s with env := { s.env with lvlBtn := l } } =
          .next { u with env := { u.env with lvlBtn := l } }))

/-- R55: the component the column rule works with is the connected component of the graph of
pressed keys. -/
def Obligations.ComponentIsGraphConnectivity : Prop :=
  ∀ (p : KeySet) (r : Fin 4),
    (∀ c, componentHasColumn p r c = true ↔ connected p (.row r) (.col c)) ∧
    (componentHasOtherRow p r = true ↔ ∃ i, i ≠ r ∧ connected p (.row r) (.row i))

/-- R55: what a column reads while at most one row is active, in the terms of the graph. -/
def Obligations.ColumnLevelFollowsTheGraph : Prop :=
  ∀ (cfg : Config) (d : Quad Drive) (p : KeySet) (free : Level) (c : Fin 4),
    ((∀ i, d.get i ≠ .level cfg.rowActive) → columnLevel cfg d p free c = free) ∧
    (∀ r, (∀ i, d.get i = .level cfg.rowActive ↔ i = r) →
      (¬ connected p (.row r) (.col c) → columnLevel cfg d p free c = !cfg.colActive) ∧
      (connected p (.row r) (.col c) → (∀ i, connected p (.row r) (.row i) → i = r) →
        keyDown p r c = true ∧ columnLevel cfg d p free c = cfg.colActive) ∧
      (connected p (.row r) (.col c) → (∃ i, i ≠ r ∧ connected p (.row r) (.row i)) →
        columnLevel cfg d p free c = free))

/-- R112: a component holds two rows exactly when a column has pressed keys in two rows. -/
def Obligations.GhostingNeedsASharedColumn : Prop :=
  ∀ p : KeySet,
    (∀ i j, connected p (.row i) (.row j) → i = j) ↔ noSharedColumn p

/-! ### Unit KP, 40_keypad.md -/

/-- R103, R104: KP.INIT fails exactly when a pin is missing, claimed, repeated or unsuitable, and
then changes nothing; else it claims the eight pins and no other, drives every row inactive and
configures the unit. -/
def Obligations.KpInitClaimsAndConfigures : Prop :=
  (∀ n : Nat, encode n .kpInit = 0#n ++ 0x01#8) ∧
  ∀ s : State,
    (claimMustFail s.cfg s.claimed (kpPinList s.cfg.pins) →
      exec .kpInit s = .next { s with
        hostBusy := false, cmd := none, responses := s.responses ++ [⟨.hwInitError, 0⟩] }) ∧
    (¬ claimMustFail s.cfg s.claimed (kpPinList s.cfg.pins) →
      ∃ m, exec .kpInit s = .next { s with
          claimed := m
          rowDrive := ⟨.level (!s.cfg.rowActive), .level (!s.cfg.rowActive),
            .level (!s.cfg.rowActive), .level (!s.cfg.rowActive)⟩
          kpCfg := true
          hostBusy := false, cmd := none, responses := s.responses ++ [⟨.ok, 0⟩] } ∧
        (∀ r, claimMode m (s.cfg.pins.row.get r) = some .out) ∧
        (∀ c, claimMode m (s.cfg.pins.col.get c) = some .inp) ∧
        (∀ p, (∀ r, p ≠ s.cfg.pins.row.get r) → (∀ c, p ≠ s.cfg.pins.col.get c) →
          claimMode m p = claimMode s.claimed p))

/-- R106, R109: the issue step of KP.SCAN. On a configured keypad the scan is accepted and starts
at (0, 0, ACT); else it is answered NOT_INITIALIZED and touches no pin. -/
def Obligations.ScanIssueStep : Prop :=
  (∀ n : Nat, encode n .kpScan = 0#n ++ 0x02#8) ∧
  ∀ s : State, s.seq = .idle →
    (s.kpCfg = true → exec .kpScan s = .next { s with
      keysAcc := 0#16, seq := .run 0 0 .act, hostBusy := true, cmd := some .kpScan }) ∧
    (s.kpCfg = false → exec .kpScan s = .next { s with
      hostBusy := false, cmd := none, responses := s.responses ++ [⟨.notInitialized, 0⟩] })

/-- R106: the micro-steps of a scan: ACT and SAMPLE where their pin access succeeds, and DEACT
whatever the draw, since a deactivating write never fails (R53). -/
def Obligations.ScanMicroSteps : Prop :=
  ∀ (s : State) (r c : Fin 4),
    (s.seq = .run r c .act → (s.cfg.ioFaults = false ∨ s.draw.ok = true) →
      exec .kpScan s = .next { s with
        rowDrive := s.rowDrive.set r (.level s.cfg.rowActive), seq := .run r 0 .sample }) ∧
    (s.seq = .run r c .sample → (s.cfg.ioFaults = false ∨ s.draw.ok = true) →
      exec .kpScan s = .next { s with
        keysAcc :=
          if columnLevel s.cfg s.rowDrive s.env.pressed s.draw.level c = s.cfg.colActive
          then s.keysAcc ||| (1#16 <<< (4 * r.val + c.val)) else s.keysAcc
        seq := if c = 3 then .run r 3 .deact else .run r (c + 1) .sample }) ∧
    (s.seq = .run r c .deact → r ≠ 3 → exec .kpScan s = .next { s with
      rowDrive := s.rowDrive.set r (.level (!s.cfg.rowActive)), seq := .run (r + 1) 0 .act }) ∧
    (s.seq = .run r c .deact → r = 3 → exec .kpScan s = .next { s with
      rowDrive := s.rowDrive.set r (.level (!s.cfg.rowActive)), seq := .idle
      hostBusy := false, cmd := none
      responses := s.responses ++ [⟨.ok, s.keysAcc.toNat⟩] })

/-- R107, R108: a failed column read or row activation ends the scan with HW_READ_ERROR and no
row active. `keys_acc` is discarded: the statement leaves its value open (`k`; log 18). -/
def Obligations.FailedAccessAbortsTheScan : Prop :=
  ∀ (s : State) (r c : Fin 4), s.cfg.ioFaults = true → s.draw.ok = false →
    (s.seq = .run r c .sample → ∃ k : Keys, exec .kpScan s = .next { s with
      rowDrive := s.rowDrive.set r (.level (!s.cfg.rowActive)), seq := .idle, keysAcc := k
      hostBusy := false, cmd := none
      responses := s.responses ++ [⟨.hwReadError, 0⟩] }) ∧
    (s.seq = .run r c .act → ∃ k : Keys, exec .kpScan s = .next { s with
      seq := .idle, keysAcc := k, hostBusy := false, cmd := none
      responses := s.responses ++ [⟨.hwReadError, 0⟩] }) ∧
    (Inv s → ∀ u, exec .kpScan s = .next u → u.seq = .idle →
      ∀ i, u.rowDrive.get i ≠ .level u.cfg.rowActive)

/-- R113: KP.SHUTDOWN stops driving the rows, releases the keypad's pins and no other, and
unconfigures the unit; on an unconfigured unit it changes nothing. -/
def Obligations.KpShutdownReleases : Prop :=
  (∀ n : Nat, encode n .kpShutdown = 0#n ++ 0x03#8) ∧
  ∀ s : State,
    (s.kpCfg = true → ∃ m, exec .kpShutdown s = .next { s with
        claimed := m, rowDrive := ⟨.z, .z, .z, .z⟩, kpCfg := false
        hostBusy := false, cmd := none, responses := s.responses ++ [⟨.ok, 0⟩] } ∧
      (∀ r, claimMode m (s.cfg.pins.row.get r) = none) ∧
      (∀ c, claimMode m (s.cfg.pins.col.get c) = none) ∧
      (∀ p, (∀ r, p ≠ s.cfg.pins.row.get r) → (∀ c, p ≠ s.cfg.pins.col.get c) →
        claimMode m p = claimMode s.claimed p)) ∧
    (s.kpCfg = false → exec .kpShutdown s = .next { s with
      hostBusy := false, cmd := none, responses := s.responses ++ [⟨.notInitialized, 0⟩] })

/-- R28, R106: when no scan is in progress no row is active, the drive levels are the same at the
start of every scan (every row inactive), and never are two rows active. -/
def Obligations.AtMostOneRowActive : Prop :=
  ∀ s : State, Inv s →
    (s.seq = .idle → ∀ r, s.rowDrive.get r ≠ .level s.cfg.rowActive) ∧
    (s.seq = .run 0 0 .act → ∀ r, s.rowDrive.get r = .level (!s.cfg.rowActive)) ∧
    (∀ i j, s.rowDrive.get i = .level s.cfg.rowActive →
      s.rowDrive.get j = .level s.cfg.rowActive → i = j)

/-- R106: a scan none of whose accesses fails answers at its 24th micro-step and at none before,
whatever EDGE and ENV do in between. -/
def Obligations.ScanTakesTwentyFourMicroSteps : Prop :=
  ∀ (s : State) (ts : List Turn), Inv s → s.seq = .run 0 0 .act →
    (∀ t ∈ ts, isIssue t = false ∧ t ≠ .reset ∧ accessSucceeds s.cfg t = true) →
    (ts.countP isCont < 24 →
      (afterTurns s ts).responses = s.responses ∧ (afterTurns s ts).hostBusy = true) ∧
    (ts.countP isCont = 24 →
      (∃ keys : Keys, (afterTurns s ts).responses = s.responses ++ [⟨.ok, keys.toNat⟩]) ∧
      (afterTurns s ts).hostBusy = false ∧ (afterTurns s ts).seq = .idle ∧
      (afterTurns s ts).rowDrive = s.rowDrive)

/-- R112, R105, R114: while the pressed keys stay as they are, share no column between rows, and
no access fails, a scan reports exactly the pressed keys, whatever EDGE and ENV's lines do in
between its micro-steps. -/
def Obligations.ScanReportsThePressedKeys : Prop :=
  ∀ (s : State) (d : Draw) (ts : List Turn), Inv s → s.hostBusy = false → s.kpCfg = true →
    noSharedColumn s.env.pressed →
    (∀ t ∈ ts, keepsKeys s.env.pressed t = true ∧ accessSucceeds s.cfg t = true) →
    ts.countP isCont = 24 →
    ∃ keys : Keys,
      (afterTurns s (.issue 0x0000000002 d :: ts)).responses =
        s.responses ++ [⟨.ok, keys.toNat⟩] ∧
      ∀ r c : Fin 4, keys.getLsbD (4 * r.val + c.val) = keyDown s.env.pressed r c

/-- R112 step by step: a scan that has found exactly the pressed keys it has sampled stays so
through every step that leaves the keys and succeeds, until it answers with all of them. -/
def Obligations.ScanStaysFaithful : Prop :=
  ∀ (p : KeySet) (s u : State) (t : Turn), Inv s → noSharedColumn p → scanFaithful p s →
    keepsKeys p t = true → accessSucceeds s.cfg t = true → takeTurn t s = .next u →
    scanFaithful p u ∨
      (u.seq = .idle ∧ u.hostBusy = false ∧
        u.responses = s.responses ++ [⟨.ok, (keysOf p).toNat⟩])

/-- R110: a micro-step's effect on the scan depends on `seq`, on the keys found so far, and, for
ACT, on whether its one write succeeds, for SAMPLE, on the answer to its one read, of the column
its triple names; on nothing else of the machine. -/
def Obligations.ScanDependsOnlyOnItsSamples : Prop :=
  ∀ s s' u u' : State,
    s.seq = s'.seq → s.seq ≠ .idle → s.keysAcc = s'.keysAcc → s.cfg = s'.cfg →
    (∀ r c, s.seq = .run r c .act → accessOk s = accessOk s') →
    (∀ r c, s.seq = .run r c .sample → gpioRead s (.col c) = gpioRead s' (.col c)) →
    exec .kpScan s = .next u → exec .kpScan s' = .next u' →
    u.seq = u'.seq ∧ u.keysAcc = u'.keysAcc ∧
      ∃ l, u.responses = s.responses ++ l ∧ u'.responses = s'.responses ++ l

/-- R102: KEYS values and sets of labels correspond one to one. -/
def Obligations.LabelsNameEverySetOnce : Prop :=
  ∀ km : KeyMap,
    (∀ (k : Keys) (r c : Fin 4),
      keyLabel km r c ∈ labels km k ↔ k.getLsbD (4 * r.val + c.val) = true) ∧
    (∀ k k' : Keys, (∀ l, l ∈ labels km k ↔ l ∈ labels km k') → k = k') ∧
    (∀ ls : List KeyLabel, ∃ k : Keys, ∀ l, l ∈ labels km k ↔ l ∈ ls)

/-! ### Unit ENC, 41_encoder.md -/

/-- R130: the 16 entries of the table. -/
def Obligations.TransitionTableEntries : Prop :=
  (∀ pA pB cA cB : Level,
    tableIndex pA pB cA cB = BitVec.ofNat 4 (8 * pA.toNat + 4 * pB.toNat + 2 * cA.toNat + cB.toNat)) ∧
  (∀ idx : BitVec 4,
    (idx ∈ [0#4, 5#4, 10#4, 15#4] → tableEntry idx = .zero) ∧
    (idx ∈ [2#4, 4#4, 11#4, 13#4] → tableEntry idx = .plusOne) ∧
    (idx ∈ [1#4, 7#4, 8#4, 14#4] → tableEntry idx = .minusOne) ∧
    (idx ∈ [3#4, 6#4, 9#4, 12#4] → tableEntry idx = .amb))

/-- R132: the stored codes, the word that holds them, and that code 0b10 adds nothing. -/
def Obligations.StoredTableIsTheTable : Prop :=
  transitionRom = 0x364BE19C#32 ∧
  (∀ idx : BitVec 4, romCode idx = deltaCode (tableEntry idx)) ∧
  deltaCode .zero = 0b00#2 ∧ deltaCode .plusOne = 0b01#2 ∧ deltaCode .minusOne = 0b11#2 ∧
  deltaCode .amb = 0b10#2 ∧
  (∀ d : Delta, d ≠ .amb → (deltaCode d).toInt = deltaValue d) ∧
  (∀ (n : Nat) (idx : BitVec 4) (p : Int), romCode idx = 0b10#2 →
    applyDelta n (tableEntry idx) p = p)

/-- R131: the sum is taken in the integers and wrapped into the signed range; AMB adds nothing;
the commit applies it and reports no wrap. -/
def Obligations.DeltaAddsAndWraps : Prop :=
  (∀ (n : Nat) (d : Delta) (p : Int), 2 ≤ n → operandInRange n p = true →
    (d = .amb → applyDelta n d p = p) ∧
    (d ≠ .amb → operandInRange n (applyDelta n d p) = true ∧
      ∃ k : Int, applyDelta n d p = p + deltaValue d + k * 2 ^ n) ∧
    (d = .plusOne → p = 2 ^ (n - 1) - 1 → applyDelta n d p = -2 ^ (n - 1)) ∧
    (d = .plusOne → p ≠ 2 ^ (n - 1) - 1 → applyDelta n d p = p + 1) ∧
    (d = .minusOne → p = -2 ^ (n - 1) → applyDelta n d p = 2 ^ (n - 1) - 1) ∧
    (d = .minusOne → p ≠ -2 ^ (n - 1) → applyDelta n d p = p - 1) ∧
    (d = .zero → applyDelta n d p = p)) ∧
  (∀ s u : State, s.encPhase = .gotB → exec .encEdge s = .next u →
    u.position = applyDelta s.cfg.width
      (tableEntry (tableIndex s.prevA s.prevB s.latchA s.latchB)) s.position ∧
    u.responses = s.responses ∧ u.encFault = s.encFault)

/-- R144: each command that takes the lock holds while a handler run is in progress: it is
accepted, unanswered, and changes nothing else. ENC.GETBTN never holds. -/
def Obligations.CommandsHoldDuringAHandlerRun : Prop :=
  ∀ s : State,
    (s.encPhase ≠ .idle →
      exec .encInit s = .next { s with hostBusy := true, cmd := some .encInit } ∧
      exec .encGetpos s = .next { s with hostBusy := true, cmd := some .encGetpos } ∧
      (∀ v, operandInRange s.cfg.width v = true → exec (.encSetpos v) s =
        .next { s with hostBusy := true, cmd := some (.encSetpos v) }) ∧
      exec .encShutdown s = .next { s with hostBusy := true, cmd := some .encShutdown }) ∧
    (∀ u, exec .encGetbtn s = .next u → u.hostBusy = false)

/-- R133, R134: ENC.INIT, once no handler run is in progress. -/
def Obligations.EncInitClaimsAndClears : Prop :=
  (∀ n : Nat, encode n .encInit = 0#n ++ 0x11#8) ∧
  ∀ s : State,
    (s.encPhase ≠ .idle →
      exec .encInit s = .next { s with hostBusy := true, cmd := some .encInit }) ∧
    (s.encPhase = .idle →
      (claimMustFail s.cfg s.claimed (encPinList s.cfg.pins) →
        exec .encInit s = .next { s with
          hostBusy := false, cmd := none, responses := s.responses ++ [⟨.hwInitError, 0⟩] }) ∧
      (¬ claimMustFail s.cfg s.claimed (encPinList s.cfg.pins) →
        ∃ m, exec .encInit s = .next { s with
            claimed := m, position := 0, prevA := false, prevB := false
            edgePending := false, encCfg := true
            hostBusy := false, cmd := none, responses := s.responses ++ [⟨.ok, 0⟩] } ∧
          claimMode m s.cfg.pins.a = some .inEdgePu ∧
          claimMode m s.cfg.pins.b = some .inEdgePu ∧
          claimMode m s.cfg.pins.btn = some .inPlain ∧
          (∀ p, p ≠ s.cfg.pins.a → p ≠ s.cfg.pins.b → p ≠ s.cfg.pins.btn →
            claimMode m p = claimMode s.claimed p)))

/-- R140: ENC.GETPOS answers the position, configured or not, once no handler run is in
progress. -/
def Obligations.GetposAnswersThePosition : Prop :=
  (∀ n : Nat, encode n .encGetpos = 0#n ++ 0x12#8) ∧
  ∀ s : State,
    (s.encPhase ≠ .idle →
      exec .encGetpos s = .next { s with hostBusy := true, cmd := some .encGetpos }) ∧
    (s.encPhase = .idle →
      exec .encGetpos s = .next { s with
        hostBusy := false, cmd := none
        responses := s.responses ++ [⟨.ok, (s.position % 2 ^ max 16 s.cfg.width).toNat⟩] })

/-- R141: ENC.SETPOS with any operand a command word can carry overwrites the position and leaves
prevA and prevB, configured or not, once no handler run is in progress. -/
def Obligations.SetposOverwritesThePosition : Prop :=
  (∀ (n : Nat) (v : Int), operandInRange n v = true →
    encode n (.encSetpos v) = BitVec.ofInt n v ++ 0x13#8) ∧
  ∀ (s : State) (v : Int), operandInRange s.cfg.width v = true →
    (s.encPhase ≠ .idle →
      exec (.encSetpos v) s = .next { s with hostBusy := true, cmd := some (.encSetpos v) }) ∧
    (s.encPhase = .idle →
      exec (.encSetpos v) s = .next { s with
        position := v
        hostBusy := false, cmd := none, responses := s.responses ++ [⟨.ok, 0⟩] })

/-- R142: ENC.GETBTN answers the live level, a failed read as HW_READ_ERROR, an unconfigured unit
as NOT_INITIALIZED. -/
def Obligations.GetbtnAnswersTheLiveLevel : Prop :=
  (∀ n : Nat, encode n .encGetbtn = 0#n ++ 0x14#8) ∧
  ∀ s : State,
    (s.encCfg = true → (s.cfg.ioFaults = false ∨ s.draw.ok = true) →
      exec .encGetbtn s = .next { s with
        hostBusy := false, cmd := none
        responses := s.responses ++ [⟨.ok, if s.env.lvlBtn then 1 else 0⟩] }) ∧
    (s.encCfg = true → s.cfg.ioFaults = true → s.draw.ok = false →
      exec .encGetbtn s = .next { s with
        hostBusy := false, cmd := none, responses := s.responses ++ [⟨.hwReadError, 0⟩] }) ∧
    (s.encCfg = false →
      exec .encGetbtn s = .next { s with
        hostBusy := false, cmd := none, responses := s.responses ++ [⟨.notInitialized, 0⟩] })

/-- R143: ENC.SHUTDOWN stops edge tracking, drops a pending edge, releases its pins and no other,
and keeps EncoderState, once no handler run is in progress. -/
def Obligations.EncShutdownReleases : Prop :=
  (∀ n : Nat, encode n .encShutdown = 0#n ++ 0x15#8) ∧
  ∀ s : State,
    (s.encPhase ≠ .idle →
      exec .encShutdown s = .next { s with hostBusy := true, cmd := some .encShutdown }) ∧
    (s.encPhase = .idle → s.encCfg = true →
      ∃ m, exec .encShutdown s = .next { s with
          encCfg := false, edgePending := false, claimed := m
          hostBusy := false, cmd := none, responses := s.responses ++ [⟨.ok, 0⟩] } ∧
        claimMode m s.cfg.pins.a = none ∧ claimMode m s.cfg.pins.b = none ∧
        claimMode m s.cfg.pins.btn = none ∧
        (∀ p, p ≠ s.cfg.pins.a → p ≠ s.cfg.pins.b → p ≠ s.cfg.pins.btn →
          claimMode m p = claimMode s.claimed p)) ∧
    (s.encPhase = .idle → s.encCfg = false →
      exec .encShutdown s = .next { s with
        hostBusy := false, cmd := none, responses := s.responses ++ [⟨.notInitialized, 0⟩] })

/-- R136, R137, R138: the three micro-steps of ENC.EDGE whose reads succeed. -/
def Obligations.EdgeHandlerMicroSteps : Prop :=
  (∀ n : Nat, encode n .encEdge = 0#n ++ 0x80#8) ∧
  ∀ s : State,
    (s.encPhase = .idle → s.encCfg = true → s.edgePending = true →
      (s.cfg.ioFaults = false ∨ s.draw.ok = true) →
      exec .encEdge s = .next { s with
        edgePending := false, encPhase := .gotA, latchA := s.env.lvlA }) ∧
    (s.encPhase = .gotA → (s.cfg.ioFaults = false ∨ s.draw.ok = true) →
      exec .encEdge s = .next { s with encPhase := .gotB, latchB := s.env.lvlB }) ∧
    (s.encPhase = .gotB →
      exec .encEdge s = .next { s with
        position :=
          if tableEntry (tableIndex s.prevA s.prevB s.latchA s.latchB) = .amb then s.position
          else (s.position +
            deltaValue (tableEntry (tableIndex s.prevA s.prevB s.latchA s.latchB))).bmod
              (2 ^ s.cfg.width)
        prevA := s.latchA, prevB := s.latchB, encPhase := .idle })

/-- R139: a failed read of the handler ends the run, leaves EncoderState, and sets the record,
which stays until reset. -/
def Obligations.HandlerReadFailureSetsTheRecord : Prop :=
  (∀ s : State, s.cfg.ioFaults = true → s.draw.ok = false →
    (s.encPhase = .idle → s.encCfg = true → s.edgePending = true →
      exec .encEdge s = .next { s with edgePending := false, encPhase := .idle, encFault := true }) ∧
    (s.encPhase = .gotA →
      exec .encEdge s = .next { s with encPhase := .idle, encFault := true })) ∧
  (∀ (t : Turn) (s u : State), s.encFault = true → t ≠ .reset → takeTurn t s = .next u →
    u.encFault = true)

/-- R135: an ENV step that changes A or B sets `edge_pending` while the unit is configured, and
is lost else; no other ENV step is an edge; the core's other registers stay. -/
def Obligations.EdgeSetsPending : Prop :=
  ∀ (s : State) (e : Env), ∃ q, takeTurn (.env e) s = .next { s with env := e, edgePending := q } ∧
    ((e.lvlA ≠ s.env.lvlA ∨ e.lvlB ≠ s.env.lvlB) → s.encCfg = true → q = true) ∧
    ((e.lvlA ≠ s.env.lvlA ∨ e.lvlB ≠ s.env.lvlB) → s.encCfg = false → q = s.edgePending) ∧
    (e.lvlA = s.env.lvlA → e.lvlB = s.env.lvlB → q = s.edgePending)

/-- R146: however many edges fall between two handler starts, they cause at most one run: when
that run is over, none can start. -/
def Obligations.EdgesCoalesceIntoOneRun : Prop :=
  ∀ (s : State) (es : List Env) (d1 d2 d3 : Draw), s.encPhase = .idle →
    (afterTurns s (es.map .env ++ [.edge d1, .edge d2, .edge d3])).encPhase = .idle ∧
    handlerMayStart (afterTurns s (es.map .env ++ [.edge d1, .edge d2, .edge d3])) = false

/-- R65, R212: a handler run in progress ends within its remaining micro-steps, whatever else
steps in between (reset apart, which ends it too). -/
def Obligations.HandlerRunEndsInThreeMicroSteps : Prop :=
  ∀ (s : State) (ts : List Turn), Inv s → s.encPhase ≠ .idle → 2 ≤ ts.countP isEdge →
    ∃ ts', ts' <+: ts ∧ (afterTurns s ts').encPhase = .idle

/-- R147: the position after any run is the position before it plus the committed deltas, wrapped,
if no ENC.SETPOS, no ENC.INIT and no reset falls in the run. -/
def Obligations.PositionAccumulatesTheCommits : Prop :=
  ∀ (choice : Nat → Turn) (s : State) (n : Nat), operandInRange s.cfg.width s.position = true →
    (∀ k, k < n → mayRewritePosition (choice k) (stateAt choice s k) = false) →
    (stateAt choice s n).position =
      (s.position + deltaSum choice s n).bmod (2 ^ s.cfg.width)

/-- R147: with one handler run after each change and none missed, a full Gray cycle in the +1
direction adds 4 and the reverse cycle adds -4. -/
def Obligations.FullGrayCycleAddsFour : Prop :=
  ∀ (s : State) (d : Draw),
    s.encCfg = true → s.encPhase = .idle → s.prevA = false → s.prevB = false →
    s.env.lvlA = false → s.env.lvlB = false → (s.cfg.ioFaults = false ∨ d.ok = true) →
    (afterTurns s (turnAndRun s.env d true false ++ turnAndRun s.env d true true ++
      turnAndRun s.env d false true ++ turnAndRun s.env d false false)).position =
      (s.position + 4).bmod (2 ^ s.cfg.width) ∧
    (afterTurns s (turnAndRun s.env d false true ++ turnAndRun s.env d true true ++
      turnAndRun s.env d true false ++ turnAndRun s.env d false false)).position =
      (s.position - 4).bmod (2 ^ s.cfg.width)

/-! ### Rules of the whole machine -/

/-- R22, R182: prevA and prevB are written by the handler's commit, by ENC.INIT and by reset, and
by nothing else. -/
def Obligations.OnlyTheHandlerAndInitWritePrev : Prop :=
  ∀ (t : Turn) (s u : State), takeTurn t s = .next u →
    (u.prevA ≠ s.prevA ∨ u.prevB ≠ s.prevB) →
    (turnInstr t s = some .encEdge ∧ s.encPhase = .gotB ∧ u.prevA = s.latchA ∧ u.prevB = s.latchB) ∨
    (turnInstr t s = some .encInit ∧ u.prevA = false ∧ u.prevB = false) ∨ t = .reset

/-- R21: the position is written by ENC.SETPOS, by the handler's commit, by ENC.INIT and by reset,
and by nothing else. -/
def Obligations.OnlyFourThingsWriteThePosition : Prop :=
  ∀ (t : Turn) (s u : State), takeTurn t s = .next u → u.position ≠ s.position →
    (∃ v, turnInstr t s = some (.encSetpos v) ∧
      (operandInRange s.cfg.width v = true → u.position = v)) ∨
    (turnInstr t s = some .encEdge ∧ s.encPhase = .gotB) ∨
    (turnInstr t s = some .encInit ∧ u.position = 0) ∨ t = .reset

/-- R36: the fault record is set by a failed handler read and by nothing else, shows on FAULT, and
is cleared by reset and by nothing else. -/
def Obligations.FaultRecordIsSticky : Prop :=
  ∀ (t : Turn) (s u : State), Inv s → takeTurn t s = .next u →
    faultOutput u = u.encFault ∧
    (s.encFault = true → t ≠ .reset → u.encFault = true) ∧
    (t = .reset → u.encFault = false) ∧
    (∀ d, t = .edge d → s.cfg.ioFaults = true → d.ok = false → edgeEnabled s → s.encPhase ≠ .gotB →
      u.encFault = true) ∧
    (s.encFault = false → u.encFault = true →
      ∃ d, t = .edge d ∧ s.cfg.ioFaults = true ∧ d.ok = false ∧ edgeEnabled s ∧
        s.encPhase ≠ .gotB)

/-- R73, R74: the codes of the statuses, none of them 5, 6 or 7; and a step gives at most one
response, and only to the command it issues or continues; the response frees the host port, and no
response leaves an accepted command waiting. -/
def Obligations.OneResponsePerCommand : Prop :=
  (statusCode .ok = 0#3 ∧ statusCode .hwInitError = 1#3 ∧ statusCode .hwReadError = 2#3 ∧
    statusCode .notInitialized = 3#3 ∧ statusCode .illegalCommand = 4#3 ∧
    ∀ st : Status, statusCode st ∉ [5#3, 6#3, 7#3]) ∧
  ∀ (t : Turn) (s u : State), Inv s → takeTurn t s = .next u →
    (u.responses = s.responses ∨
      ∃ r, u.responses = s.responses ++ [r] ∧ u.hostBusy = false ∧
        (isIssue t = true ∧ s.hostBusy = false ∨ isCont t = true ∧ s.hostBusy = true)) ∧
    (isIssue t = true → s.hostBusy = false → u.responses = s.responses → u.hostBusy = true) ∧
    (s.hostBusy = true → t ≠ .reset → u.responses = s.responses →
      u.hostBusy = true ∧ u.cmd = s.cmd) ∧
    (s.hostBusy = false → isIssue t = false → u.responses = s.responses ∧ u.hostBusy = false)

/-- R176: a command that ends with an error leaves every register as it was, a scan's row drive
and accumulator apart; no row is active after it; its datum is 0. -/
def Obligations.ErrorsLeaveTheRegisters : Prop :=
  ∀ (t : Turn) (s u : State) (r : Response), Inv s → takeTurn t s = .next u →
    u.responses = s.responses ++ [r] → r.status ≠ .ok →
    r.rdata = 0 ∧
    u = { s with
      draw := u.draw, rowDrive := u.rowDrive, seq := .idle, keysAcc := u.keysAcc
      hostBusy := false, cmd := none, responses := s.responses ++ [r] } ∧
    (s.seq = .idle → u.rowDrive = s.rowDrive ∧ u.keysAcc = s.keysAcc) ∧
    (∀ i, u.rowDrive.get i ≠ .level s.cfg.rowActive)

/-- R41, R114: no KP command reads or writes an ENC register, and no ENC command or event reads or
writes a KP register: replacing the other unit's registers beforehand changes nothing else. -/
def Obligations.UnitsAreIndependent : Prop :=
  ∀ (s : State) (p : Int) (a b la lb e f g : Bool) (ph : EncPhase)
    (k : Bool) (rd : Quad Drive) (q : Seq) (acc : Keys),
    (∀ i, i = .kpInit ∨ i = .kpScan ∨ i = .kpShutdown → ∀ u, exec i s = .next u →
      u.position = s.position ∧ u.prevA = s.prevA ∧ u.prevB = s.prevB ∧
      u.edgePending = s.edgePending ∧ u.encPhase = s.encPhase ∧ u.latchA = s.latchA ∧
      u.latchB = s.latchB ∧ u.encCfg = s.encCfg ∧ u.encFault = s.encFault ∧
      exec i { s with
        position := p, prevA := a, prevB := b, edgePending := e, encPhase := ph
        latchA := la, latchB := lb, encCfg := f, encFault := g } =
      .next { u with
        position := p, prevA := a, prevB := b, edgePending := e, encPhase := ph
        latchA := la, latchB := lb, encCfg := f, encFault := g }) ∧
    (∀ i, i ≠ .kpInit → i ≠ .kpScan → i ≠ .kpShutdown → ∀ u, exec i s = .next u →
      u.kpCfg = s.kpCfg ∧ u.rowDrive = s.rowDrive ∧ u.seq = s.seq ∧ u.keysAcc = s.keysAcc ∧
      exec i { s with kpCfg := k, rowDrive := rd, seq := q, keysAcc := acc } =
      .next { u with kpCfg := k, rowDrive := rd, seq := q, keysAcc := acc })

/-- R114: the order of a scan's micro-step and a handler's micro-step changes neither's result
(the model's `draw`, which holds the last step's draw, apart). -/
def Obligations.ScanAndHandlerStepsCommute : Prop :=
  ∀ (s : State) (d d' : Draw), s.hostBusy = true → s.cmd = some .kpScan → s.seq ≠ .idle →
    { afterTurns s [.cont d, .edge d'] with draw := d } =
    { afterTurns s [.edge d', .cont d] with draw := d }

/-- R214: under fairness every accepted command is answered, unless a reset intervenes. -/
def Obligations.FairRunsAnswerEveryCommand : Prop :=
  ∀ (choice : Nat → Turn) (s : State), Inv s → Fair choice s →
    ∀ n, (stateAt choice s n).hostBusy = true →
      ∃ m, n ≤ m ∧ (choice m = .reset ∨
        ∃ r, (stateAt choice s (m + 1)).responses = (stateAt choice s m).responses ++ [r] ∧
          (stateAt choice s (m + 1)).hostBusy = false)
end

