-- ==== Sys2Proof/Laws/Claims.lean ====
section
/-! SUPPORT. The claim map: reading after a write, and the canonical form, which every operation
keeps. -/

namespace Sys2Proof.Machine

/-! ### Reading after a write -/

theorem claimMode_insertClaim (p q : PinId) (mode : PinMode) (m : Claims) :
    claimMode (insertClaim p mode m) q = if q = p then some mode else claimMode m q := by
  induction m with
  | nil => simp [insertClaim, claimMode, eq_comm]
  | cons e rest ih =>
    obtain ⟨r, old⟩ := e
    simp only [insertClaim]
    split
    · simp [claimMode, eq_comm]
    · split
      · subst_vars; simp only [claimMode]; split <;> simp_all [eq_comm]
      · simp only [claimMode, ih]; split <;> simp_all [eq_comm]

@[simp] theorem claimMode_insertClaim_self (p : PinId) (mode : PinMode) (m : Claims) :
    claimMode (insertClaim p mode m) p = some mode := by
  simp [claimMode_insertClaim]

theorem claimMode_insertClaim_ne {p q : PinId} (mode : PinMode) (m : Claims) (h : q ≠ p) :
    claimMode (insertClaim p mode m) q = claimMode m q := by
  simp [claimMode_insertClaim, h]

theorem claimMode_eraseClaim (p q : PinId) (m : Claims) :
    claimMode (eraseClaim p m) q = if q = p then none else claimMode m q := by
  induction m with
  | nil => simp [eraseClaim, claimMode]
  | cons e rest ih =>
    obtain ⟨r, old⟩ := e
    simp only [eraseClaim] at ih ⊢
    by_cases h : r = p
    · subst h; simp only [List.filter, bne_self_eq_false, ih, claimMode]; grind
    · have : (r != p) = true := by simpa using h
      simp only [List.filter, this, claimMode, ih]; grind

/-! ### The canonical form -/

theorem insertClaim_mem {p : PinId} {mode : PinMode} {m : Claims} {e : PinId × PinMode}
    (h : e ∈ insertClaim p mode m) : e = (p, mode) ∨ e ∈ m := by
  induction m with
  | nil => simpa [insertClaim] using h
  | cons f rest ih =>
    obtain ⟨r, old⟩ := f
    simp only [insertClaim] at h
    split at h
    · simpa using h
    · split at h
      · simp at h; tauto
      · simp at h; rcases h with h | h
        · simp [h]
        · have := ih h; simp; tauto

theorem insertClaim_canonical {p : PinId} {mode : PinMode} {m : Claims}
    (h : claimsCanonical m = true) : claimsCanonical (insertClaim p mode m) = true := by
  induction m with
  | nil => simp [insertClaim, claimsCanonical]
  | cons f rest ih =>
    obtain ⟨r, old⟩ := f
    simp only [claimsCanonical, Bool.and_eq_true, List.all_eq_true, decide_eq_true_eq] at h
    obtain ⟨hr, hc⟩ := h
    simp only [insertClaim]
    split
    case isTrue hlt =>
      simp only [claimsCanonical, Bool.and_eq_true, List.all_eq_true, decide_eq_true_eq]
      refine ⟨fun e he => ?_, hr, hc⟩
      rcases List.mem_cons.1 he with rfl | he
      · exact hlt
      · exact lt_trans hlt (hr e he)
    case isFalse hlt =>
      split
      case isTrue heq =>
        subst heq
        simp only [claimsCanonical, Bool.and_eq_true, List.all_eq_true, decide_eq_true_eq]
        exact ⟨hr, hc⟩
      case isFalse hne =>
        simp only [claimsCanonical, Bool.and_eq_true, List.all_eq_true, decide_eq_true_eq]
        refine ⟨fun e he => ?_, ih hc⟩
        rcases insertClaim_mem he with rfl | he
        · exact lt_of_le_of_ne (not_lt.1 hlt) (Ne.symm hne)
        · exact hr e he

theorem eraseClaim_canonical {p : PinId} {m : Claims} (h : claimsCanonical m = true) :
    claimsCanonical (eraseClaim p m) = true := by
  induction m with
  | nil => rfl
  | cons f rest ih =>
    obtain ⟨r, old⟩ := f
    simp only [claimsCanonical, Bool.and_eq_true, List.all_eq_true, decide_eq_true_eq] at h
    by_cases hp : (r != p) = true
    · simp only [eraseClaim, List.filter, hp, claimsCanonical, Bool.and_eq_true, List.all_eq_true,
        decide_eq_true_eq]
      exact ⟨fun e he => h.1 e (List.mem_of_mem_filter he), ih h.2⟩
    · simp only [eraseClaim, List.filter, hp]
      exact ih h.2

theorem foldl_insertClaim_canonical (l : List (PinId × PinMode)) :
    ∀ {m : Claims}, claimsCanonical m = true →
      claimsCanonical (l.foldl (fun m e => insertClaim e.1 e.2 m) m) = true := by
  induction l with
  | nil => intro m h; exact h
  | cons e rest ih => intro m h; exact ih (insertClaim_canonical h)

/-- A claim that succeeds keeps the canonical form. -/
theorem claimAll_canonical {c : Config} {m m' : Claims} {l : List (PinId × PinMode)}
    (h : claimsCanonical m = true) (hc : claimAll c m l = .ok m') :
    claimsCanonical m' = true := by
  unfold claimAll at hc
  split at hc
  · cases hc
  · cases hc; exact foldl_insertClaim_canonical l h

/-- A release keeps the canonical form. -/
theorem releaseAll_canonical (l : List (PinId × PinMode)) :
    ∀ {m : Claims}, claimsCanonical m = true → claimsCanonical (releaseAll m l) = true := by
  induction l with
  | nil => intro m h; exact h
  | cons e rest ih => intro m h; exact ih (eraseClaim_canonical h)

/-- Two maps in canonical form that claim the same pins in the same modes are equal. -/
theorem claims_ext : ∀ {m m' : Claims}, claimsCanonical m = true → claimsCanonical m' = true →
    (∀ p, claimMode m p = claimMode m' p) → m = m' := by
  have below : ∀ (m : Claims) (p : PinId), (∀ e ∈ m, p < e.1) → claimMode m p = none := by
    intro m p
    induction m with
    | nil => intro _; rfl
    | cons e rest ih =>
      obtain ⟨r, old⟩ := e
      intro h
      have h0 : p < r := h (r, old) (by simp)
      simp only [claimMode]
      rw [if_neg (Nat.ne_of_gt h0)]
      exact ih (fun e he => h e (List.mem_cons_of_mem _ he))
  intro m
  induction m with
  | nil =>
    intro m' _ _ h
    cases m' with
    | nil => rfl
    | cons f rest =>
      obtain ⟨r, v⟩ := f
      have := h r
      simp [claimMode] at this
  | cons e rest ih =>
    obtain ⟨p, v⟩ := e
    intro m' hm hm' h
    simp only [claimsCanonical, Bool.and_eq_true, List.all_eq_true, decide_eq_true_eq] at hm
    cases m' with
    | nil => have := h p; simp [claimMode] at this
    | cons f rest' =>
      obtain ⟨p', v'⟩ := f
      simp only [claimsCanonical, Bool.and_eq_true, List.all_eq_true, decide_eq_true_eq] at hm'
      have hpp : p = p' := by
        rcases lt_trichotomy p p' with hlt | heq | hgt
        · have h1 := h p
          rw [below ((p', v') :: rest') p (by
            intro e he
            rcases List.mem_cons.1 he with rfl | he
            · exact hlt
            · exact lt_trans hlt (hm'.1 e he))] at h1
          simp [claimMode] at h1
        · exact heq
        · have h1 := h p'
          rw [below ((p, v) :: rest) p' (by
            intro e he
            rcases List.mem_cons.1 he with rfl | he
            · exact hgt
            · exact lt_trans hgt (hm.1 e he))] at h1
          simp [claimMode] at h1
      subst hpp
      have hv : v = v' := by simpa [claimMode] using h p
      subst hv
      congr 1
      refine ih hm.2 hm'.2 (fun q => ?_)
      have hq := h q
      simp only [claimMode] at hq
      by_cases hpq : p = q
      · subst hpq
        rw [below rest p hm.1, below rest' p hm'.1]
      · simpa [hpq] using hq

end Sys2Proof.Machine
end

