-- ==== Sys2Proof/Laws/Quad.lean ====
section
/-! SUPPORT. Reading and writing a row of four. -/

namespace Sys2Proof

namespace Quad

variable {α : Type}

@[simp] theorem get_all4 (v : α) (i : Fin 4) : (all4 v).get i = v := by fin_cases i <;> rfl

@[simp] theorem get_tabulate (f : Fin 4 → α) (i : Fin 4) : (tabulate f).get i = f i := by
  fin_cases i <;> rfl

theorem get_set (q : Quad α) (i j : Fin 4) (v : α) :
    (q.set i v).get j = if j = i then v else q.get j := by
  fin_cases i <;> fin_cases j <;> rfl

@[simp] theorem get_set_self (q : Quad α) (i : Fin 4) (v : α) : (q.set i v).get i = v := by
  simp [get_set]

theorem get_set_ne (q : Quad α) {i j : Fin 4} (v : α) (h : j ≠ i) :
    (q.set i v).get j = q.get j := by
  simp [get_set, h]

@[simp] theorem set_set (q : Quad α) (i : Fin 4) (v w : α) : (q.set i v).set i w = q.set i w := by
  fin_cases i <;> rfl

/-- Writing what is there already changes nothing. -/
theorem set_get (q : Quad α) (i : Fin 4) : q.set i (q.get i) = q := by fin_cases i <;> rfl

@[simp] theorem set_all4_self (v : α) (i : Fin 4) : (all4 v).set i v = all4 v := by
  fin_cases i <;> rfl

/-- Rows that agree at every index are equal. -/
theorem ext_get {q q' : Quad α} (h : ∀ i, q.get i = q'.get i) : q = q' := by
  obtain ⟨a, b, c, d⟩ := q
  obtain ⟨a', b', c', d'⟩ := q'
  have h0 := h 0; have h1 := h 1; have h2 := h 2; have h3 := h 3
  simp only [get] at h0 h1 h2 h3
  simp [h0, h1, h2, h3]

end Quad

@[simp] theorem mem_lines (i : Fin 4) : i ∈ lines := by fin_cases i <;> simp [lines]

/-- Every index satisfies a test when the list of indices does. -/
theorem any_lines (f : Fin 4 → Bool) : lines.any f = true ↔ ∃ i, f i = true := by
  simp [List.any_eq_true]

end Sys2Proof
end

