-- ==== Sys2Proof/Laws/State.lean ====
section
/-! SUPPORT. What each named update of the state leaves in each field: one lemma per field, so
that no later proof unfolds a record update. -/

namespace Sys2Proof.Machine

variable (s : State)

/-! ### `deactivateRow` -/

@[simp] theorem State.deactivateRow_position (r : Fin 4) :
    (s.deactivateRow r).position =
      s.position := rfl
@[simp] theorem State.deactivateRow_prevA (r : Fin 4) : (s.deactivateRow r).prevA = s.prevA := rfl
@[simp] theorem State.deactivateRow_prevB (r : Fin 4) : (s.deactivateRow r).prevB = s.prevB := rfl
@[simp] theorem State.deactivateRow_edgePending (r : Fin 4) :
    (s.deactivateRow r).edgePending =
      s.edgePending := rfl
@[simp] theorem State.deactivateRow_encPhase (r : Fin 4) :
    (s.deactivateRow r).encPhase =
      s.encPhase := rfl
@[simp] theorem State.deactivateRow_latchA (r : Fin 4) :
    (s.deactivateRow r).latchA =
      s.latchA := rfl
@[simp] theorem State.deactivateRow_latchB (r : Fin 4) :
    (s.deactivateRow r).latchB =
      s.latchB := rfl
@[simp] theorem State.deactivateRow_encCfg (r : Fin 4) :
    (s.deactivateRow r).encCfg =
      s.encCfg := rfl
@[simp] theorem State.deactivateRow_encFault (r : Fin 4) :
    (s.deactivateRow r).encFault =
      s.encFault := rfl
@[simp] theorem State.deactivateRow_kpCfg (r : Fin 4) : (s.deactivateRow r).kpCfg = s.kpCfg := rfl
@[simp] theorem State.deactivateRow_rowDrive (r : Fin 4) :
    (s.deactivateRow r).rowDrive =
      s.rowDrive.set r (.level (!s.cfg.rowActive)) := rfl
@[simp] theorem State.deactivateRow_seq (r : Fin 4) : (s.deactivateRow r).seq = s.seq := rfl
@[simp] theorem State.deactivateRow_keysAcc (r : Fin 4) :
    (s.deactivateRow r).keysAcc =
      s.keysAcc := rfl
@[simp] theorem State.deactivateRow_claimed (r : Fin 4) :
    (s.deactivateRow r).claimed =
      s.claimed := rfl
@[simp] theorem State.deactivateRow_hostBusy (r : Fin 4) :
    (s.deactivateRow r).hostBusy =
      s.hostBusy := rfl
@[simp] theorem State.deactivateRow_cmd (r : Fin 4) : (s.deactivateRow r).cmd = s.cmd := rfl
@[simp] theorem State.deactivateRow_responses (r : Fin 4) :
    (s.deactivateRow r).responses =
      s.responses := rfl
@[simp] theorem State.deactivateRow_env (r : Fin 4) : (s.deactivateRow r).env = s.env := rfl
@[simp] theorem State.deactivateRow_cfg (r : Fin 4) : (s.deactivateRow r).cfg = s.cfg := rfl
@[simp] theorem State.deactivateRow_draw (r : Fin 4) : (s.deactivateRow r).draw = s.draw := rfl
@[simp] theorem State.deactivateRow_schedule (r : Fin 4) :
    (s.deactivateRow r).schedule =
      s.schedule := rfl
@[simp] theorem State.deactivateRow_clock (r : Fin 4) : (s.deactivateRow r).clock = s.clock := rfl

/-! ### `respond` -/

@[simp] theorem State.respond_position (st : Status) (x : Nat) :
    (s.respond st x).position =
      s.position := rfl
@[simp] theorem State.respond_prevA (st : Status) (x : Nat) :
    (s.respond st x).prevA =
      s.prevA := rfl
@[simp] theorem State.respond_prevB (st : Status) (x : Nat) :
    (s.respond st x).prevB =
      s.prevB := rfl
@[simp] theorem State.respond_edgePending (st : Status) (x : Nat) :
    (s.respond st x).edgePending =
      s.edgePending := rfl
@[simp] theorem State.respond_encPhase (st : Status) (x : Nat) :
    (s.respond st x).encPhase =
      s.encPhase := rfl
@[simp] theorem State.respond_latchA (st : Status) (x : Nat) :
    (s.respond st x).latchA =
      s.latchA := rfl
@[simp] theorem State.respond_latchB (st : Status) (x : Nat) :
    (s.respond st x).latchB =
      s.latchB := rfl
@[simp] theorem State.respond_encCfg (st : Status) (x : Nat) :
    (s.respond st x).encCfg =
      s.encCfg := rfl
@[simp] theorem State.respond_encFault (st : Status) (x : Nat) :
    (s.respond st x).encFault =
      s.encFault := rfl
@[simp] theorem State.respond_kpCfg (st : Status) (x : Nat) :
    (s.respond st x).kpCfg =
      s.kpCfg := rfl
@[simp] theorem State.respond_rowDrive (st : Status) (x : Nat) :
    (s.respond st x).rowDrive =
      s.rowDrive := rfl
@[simp] theorem State.respond_seq (st : Status) (x : Nat) : (s.respond st x).seq = s.seq := rfl
@[simp] theorem State.respond_keysAcc (st : Status) (x : Nat) :
    (s.respond st x).keysAcc =
      s.keysAcc := rfl
@[simp] theorem State.respond_claimed (st : Status) (x : Nat) :
    (s.respond st x).claimed =
      s.claimed := rfl
@[simp] theorem State.respond_hostBusy (st : Status) (x : Nat) :
    (s.respond st x).hostBusy =
      false := rfl
@[simp] theorem State.respond_cmd (st : Status) (x : Nat) : (s.respond st x).cmd = none := rfl
@[simp] theorem State.respond_responses (st : Status) (x : Nat) :
    (s.respond st x).responses =
      s.responses ++ [⟨st, x⟩] := rfl
@[simp] theorem State.respond_env (st : Status) (x : Nat) : (s.respond st x).env = s.env := rfl
@[simp] theorem State.respond_cfg (st : Status) (x : Nat) : (s.respond st x).cfg = s.cfg := rfl
@[simp] theorem State.respond_draw (st : Status) (x : Nat) : (s.respond st x).draw = s.draw := rfl
@[simp] theorem State.respond_schedule (st : Status) (x : Nat) :
    (s.respond st x).schedule =
      s.schedule := rfl
@[simp] theorem State.respond_clock (st : Status) (x : Nat) :
    (s.respond st x).clock =
      s.clock := rfl

/-! ### `accept` -/

@[simp] theorem State.accept_position (i : Instr) : (s.accept i).position = s.position := rfl
@[simp] theorem State.accept_prevA (i : Instr) : (s.accept i).prevA = s.prevA := rfl
@[simp] theorem State.accept_prevB (i : Instr) : (s.accept i).prevB = s.prevB := rfl
@[simp] theorem State.accept_edgePending (i : Instr) :
    (s.accept i).edgePending =
      s.edgePending := rfl
@[simp] theorem State.accept_encPhase (i : Instr) : (s.accept i).encPhase = s.encPhase := rfl
@[simp] theorem State.accept_latchA (i : Instr) : (s.accept i).latchA = s.latchA := rfl
@[simp] theorem State.accept_latchB (i : Instr) : (s.accept i).latchB = s.latchB := rfl
@[simp] theorem State.accept_encCfg (i : Instr) : (s.accept i).encCfg = s.encCfg := rfl
@[simp] theorem State.accept_encFault (i : Instr) : (s.accept i).encFault = s.encFault := rfl
@[simp] theorem State.accept_kpCfg (i : Instr) : (s.accept i).kpCfg = s.kpCfg := rfl
@[simp] theorem State.accept_rowDrive (i : Instr) : (s.accept i).rowDrive = s.rowDrive := rfl
@[simp] theorem State.accept_seq (i : Instr) : (s.accept i).seq = s.seq := rfl
@[simp] theorem State.accept_keysAcc (i : Instr) : (s.accept i).keysAcc = s.keysAcc := rfl
@[simp] theorem State.accept_claimed (i : Instr) : (s.accept i).claimed = s.claimed := rfl
@[simp] theorem State.accept_hostBusy (i : Instr) : (s.accept i).hostBusy = true := rfl
@[simp] theorem State.accept_cmd (i : Instr) : (s.accept i).cmd = some i := rfl
@[simp] theorem State.accept_responses (i : Instr) : (s.accept i).responses = s.responses := rfl
@[simp] theorem State.accept_env (i : Instr) : (s.accept i).env = s.env := rfl
@[simp] theorem State.accept_cfg (i : Instr) : (s.accept i).cfg = s.cfg := rfl
@[simp] theorem State.accept_draw (i : Instr) : (s.accept i).draw = s.draw := rfl
@[simp] theorem State.accept_schedule (i : Instr) : (s.accept i).schedule = s.schedule := rfl
@[simp] theorem State.accept_clock (i : Instr) : (s.accept i).clock = s.clock := rfl

/-! ### `enterHandler` -/

@[simp] theorem State.enterHandler_position : s.enterHandler.position = s.position := rfl
@[simp] theorem State.enterHandler_prevA : s.enterHandler.prevA = s.prevA := rfl
@[simp] theorem State.enterHandler_prevB : s.enterHandler.prevB = s.prevB := rfl
@[simp] theorem State.enterHandler_edgePending : s.enterHandler.edgePending = false := rfl
@[simp] theorem State.enterHandler_encPhase : s.enterHandler.encPhase = .gotA := rfl
@[simp] theorem State.enterHandler_latchA : s.enterHandler.latchA = s.latchA := rfl
@[simp] theorem State.enterHandler_latchB : s.enterHandler.latchB = s.latchB := rfl
@[simp] theorem State.enterHandler_encCfg : s.enterHandler.encCfg = s.encCfg := rfl
@[simp] theorem State.enterHandler_encFault : s.enterHandler.encFault = s.encFault := rfl
@[simp] theorem State.enterHandler_kpCfg : s.enterHandler.kpCfg = s.kpCfg := rfl
@[simp] theorem State.enterHandler_rowDrive : s.enterHandler.rowDrive = s.rowDrive := rfl
@[simp] theorem State.enterHandler_seq : s.enterHandler.seq = s.seq := rfl
@[simp] theorem State.enterHandler_keysAcc : s.enterHandler.keysAcc = s.keysAcc := rfl
@[simp] theorem State.enterHandler_claimed : s.enterHandler.claimed = s.claimed := rfl
@[simp] theorem State.enterHandler_hostBusy : s.enterHandler.hostBusy = s.hostBusy := rfl
@[simp] theorem State.enterHandler_cmd : s.enterHandler.cmd = s.cmd := rfl
@[simp] theorem State.enterHandler_responses : s.enterHandler.responses = s.responses := rfl
@[simp] theorem State.enterHandler_env : s.enterHandler.env = s.env := rfl
@[simp] theorem State.enterHandler_cfg : s.enterHandler.cfg = s.cfg := rfl
@[simp] theorem State.enterHandler_draw : s.enterHandler.draw = s.draw := rfl
@[simp] theorem State.enterHandler_schedule : s.enterHandler.schedule = s.schedule := rfl
@[simp] theorem State.enterHandler_clock : s.enterHandler.clock = s.clock := rfl

/-! ### `leaveHandler` -/

@[simp] theorem State.leaveHandler_position : s.leaveHandler.position = s.position := rfl
@[simp] theorem State.leaveHandler_prevA : s.leaveHandler.prevA = s.prevA := rfl
@[simp] theorem State.leaveHandler_prevB : s.leaveHandler.prevB = s.prevB := rfl
@[simp] theorem State.leaveHandler_edgePending : s.leaveHandler.edgePending = s.edgePending := rfl
@[simp] theorem State.leaveHandler_encPhase : s.leaveHandler.encPhase = .idle := rfl
@[simp] theorem State.leaveHandler_latchA : s.leaveHandler.latchA = s.latchA := rfl
@[simp] theorem State.leaveHandler_latchB : s.leaveHandler.latchB = s.latchB := rfl
@[simp] theorem State.leaveHandler_encCfg : s.leaveHandler.encCfg = s.encCfg := rfl
@[simp] theorem State.leaveHandler_encFault : s.leaveHandler.encFault = s.encFault := rfl
@[simp] theorem State.leaveHandler_kpCfg : s.leaveHandler.kpCfg = s.kpCfg := rfl
@[simp] theorem State.leaveHandler_rowDrive : s.leaveHandler.rowDrive = s.rowDrive := rfl
@[simp] theorem State.leaveHandler_seq : s.leaveHandler.seq = s.seq := rfl
@[simp] theorem State.leaveHandler_keysAcc : s.leaveHandler.keysAcc = s.keysAcc := rfl
@[simp] theorem State.leaveHandler_claimed : s.leaveHandler.claimed = s.claimed := rfl
@[simp] theorem State.leaveHandler_hostBusy : s.leaveHandler.hostBusy = s.hostBusy := rfl
@[simp] theorem State.leaveHandler_cmd : s.leaveHandler.cmd = s.cmd := rfl
@[simp] theorem State.leaveHandler_responses : s.leaveHandler.responses = s.responses := rfl
@[simp] theorem State.leaveHandler_env : s.leaveHandler.env = s.env := rfl
@[simp] theorem State.leaveHandler_cfg : s.leaveHandler.cfg = s.cfg := rfl
@[simp] theorem State.leaveHandler_draw : s.leaveHandler.draw = s.draw := rfl
@[simp] theorem State.leaveHandler_schedule : s.leaveHandler.schedule = s.schedule := rfl
@[simp] theorem State.leaveHandler_clock : s.leaveHandler.clock = s.clock := rfl

/-! ### `failHandler` -/

@[simp] theorem State.failHandler_position : s.failHandler.position = s.position := rfl
@[simp] theorem State.failHandler_prevA : s.failHandler.prevA = s.prevA := rfl
@[simp] theorem State.failHandler_prevB : s.failHandler.prevB = s.prevB := rfl
@[simp] theorem State.failHandler_edgePending : s.failHandler.edgePending = s.edgePending := rfl
@[simp] theorem State.failHandler_encPhase : s.failHandler.encPhase = .idle := rfl
@[simp] theorem State.failHandler_latchA : s.failHandler.latchA = s.latchA := rfl
@[simp] theorem State.failHandler_latchB : s.failHandler.latchB = s.latchB := rfl
@[simp] theorem State.failHandler_encCfg : s.failHandler.encCfg = s.encCfg := rfl
@[simp] theorem State.failHandler_encFault : s.failHandler.encFault = true := rfl
@[simp] theorem State.failHandler_kpCfg : s.failHandler.kpCfg = s.kpCfg := rfl
@[simp] theorem State.failHandler_rowDrive : s.failHandler.rowDrive = s.rowDrive := rfl
@[simp] theorem State.failHandler_seq : s.failHandler.seq = s.seq := rfl
@[simp] theorem State.failHandler_keysAcc : s.failHandler.keysAcc = s.keysAcc := rfl
@[simp] theorem State.failHandler_claimed : s.failHandler.claimed = s.claimed := rfl
@[simp] theorem State.failHandler_hostBusy : s.failHandler.hostBusy = s.hostBusy := rfl
@[simp] theorem State.failHandler_cmd : s.failHandler.cmd = s.cmd := rfl
@[simp] theorem State.failHandler_responses : s.failHandler.responses = s.responses := rfl
@[simp] theorem State.failHandler_env : s.failHandler.env = s.env := rfl
@[simp] theorem State.failHandler_cfg : s.failHandler.cfg = s.cfg := rfl
@[simp] theorem State.failHandler_draw : s.failHandler.draw = s.draw := rfl
@[simp] theorem State.failHandler_schedule : s.failHandler.schedule = s.schedule := rfl
@[simp] theorem State.failHandler_clock : s.failHandler.clock = s.clock := rfl

/-! ### `withDraw` -/

@[simp] theorem State.withDraw_position (d : Draw) : (s.withDraw d).position = s.position := rfl
@[simp] theorem State.withDraw_prevA (d : Draw) : (s.withDraw d).prevA = s.prevA := rfl
@[simp] theorem State.withDraw_prevB (d : Draw) : (s.withDraw d).prevB = s.prevB := rfl
@[simp] theorem State.withDraw_edgePending (d : Draw) :
    (s.withDraw d).edgePending =
      s.edgePending := rfl
@[simp] theorem State.withDraw_encPhase (d : Draw) : (s.withDraw d).encPhase = s.encPhase := rfl
@[simp] theorem State.withDraw_latchA (d : Draw) : (s.withDraw d).latchA = s.latchA := rfl
@[simp] theorem State.withDraw_latchB (d : Draw) : (s.withDraw d).latchB = s.latchB := rfl
@[simp] theorem State.withDraw_encCfg (d : Draw) : (s.withDraw d).encCfg = s.encCfg := rfl
@[simp] theorem State.withDraw_encFault (d : Draw) : (s.withDraw d).encFault = s.encFault := rfl
@[simp] theorem State.withDraw_kpCfg (d : Draw) : (s.withDraw d).kpCfg = s.kpCfg := rfl
@[simp] theorem State.withDraw_rowDrive (d : Draw) : (s.withDraw d).rowDrive = s.rowDrive := rfl
@[simp] theorem State.withDraw_seq (d : Draw) : (s.withDraw d).seq = s.seq := rfl
@[simp] theorem State.withDraw_keysAcc (d : Draw) : (s.withDraw d).keysAcc = s.keysAcc := rfl
@[simp] theorem State.withDraw_claimed (d : Draw) : (s.withDraw d).claimed = s.claimed := rfl
@[simp] theorem State.withDraw_hostBusy (d : Draw) : (s.withDraw d).hostBusy = s.hostBusy := rfl
@[simp] theorem State.withDraw_cmd (d : Draw) : (s.withDraw d).cmd = s.cmd := rfl
@[simp] theorem State.withDraw_responses (d : Draw) : (s.withDraw d).responses = s.responses := rfl
@[simp] theorem State.withDraw_env (d : Draw) : (s.withDraw d).env = s.env := rfl
@[simp] theorem State.withDraw_cfg (d : Draw) : (s.withDraw d).cfg = s.cfg := rfl
@[simp] theorem State.withDraw_draw (d : Draw) : (s.withDraw d).draw = d := rfl
@[simp] theorem State.withDraw_schedule (d : Draw) : (s.withDraw d).schedule = s.schedule := rfl
@[simp] theorem State.withDraw_clock (d : Draw) : (s.withDraw d).clock = s.clock := rfl

/-! ### `envStep` -/

@[simp] theorem State.envStep_position (e : Env) : (s.envStep e).position = s.position := rfl
@[simp] theorem State.envStep_prevA (e : Env) : (s.envStep e).prevA = s.prevA := rfl
@[simp] theorem State.envStep_prevB (e : Env) : (s.envStep e).prevB = s.prevB := rfl
@[simp] theorem State.envStep_edgePending (e : Env) :
    (s.envStep e).edgePending =
      (s.edgePending || (s.encCfg && (s.env.lvlA != e.lvlA || s.env.lvlB != e.lvlB))) := rfl
@[simp] theorem State.envStep_encPhase (e : Env) : (s.envStep e).encPhase = s.encPhase := rfl
@[simp] theorem State.envStep_latchA (e : Env) : (s.envStep e).latchA = s.latchA := rfl
@[simp] theorem State.envStep_latchB (e : Env) : (s.envStep e).latchB = s.latchB := rfl
@[simp] theorem State.envStep_encCfg (e : Env) : (s.envStep e).encCfg = s.encCfg := rfl
@[simp] theorem State.envStep_encFault (e : Env) : (s.envStep e).encFault = s.encFault := rfl
@[simp] theorem State.envStep_kpCfg (e : Env) : (s.envStep e).kpCfg = s.kpCfg := rfl
@[simp] theorem State.envStep_rowDrive (e : Env) : (s.envStep e).rowDrive = s.rowDrive := rfl
@[simp] theorem State.envStep_seq (e : Env) : (s.envStep e).seq = s.seq := rfl
@[simp] theorem State.envStep_keysAcc (e : Env) : (s.envStep e).keysAcc = s.keysAcc := rfl
@[simp] theorem State.envStep_claimed (e : Env) : (s.envStep e).claimed = s.claimed := rfl
@[simp] theorem State.envStep_hostBusy (e : Env) : (s.envStep e).hostBusy = s.hostBusy := rfl
@[simp] theorem State.envStep_cmd (e : Env) : (s.envStep e).cmd = s.cmd := rfl
@[simp] theorem State.envStep_responses (e : Env) : (s.envStep e).responses = s.responses := rfl
@[simp] theorem State.envStep_env (e : Env) : (s.envStep e).env = e := rfl
@[simp] theorem State.envStep_cfg (e : Env) : (s.envStep e).cfg = s.cfg := rfl
@[simp] theorem State.envStep_draw (e : Env) : (s.envStep e).draw = s.draw := rfl
@[simp] theorem State.envStep_schedule (e : Env) : (s.envStep e).schedule = s.schedule := rfl
@[simp] theorem State.envStep_clock (e : Env) : (s.envStep e).clock = s.clock := rfl

/-! ### `raise` -/

/-- An error's response is a response with datum 0. -/
@[simp] theorem State.raise_eq (st : Status) : s.raise st = s.respond st 0 := rfl

/-! ### `advance`: it uses up a turn and touches nothing else -/

@[simp] theorem State.advance_position : s.advance.position = s.position := by
  unfold State.advance; split <;> rfl
@[simp] theorem State.advance_prevA : s.advance.prevA = s.prevA := by
  unfold State.advance; split <;> rfl
@[simp] theorem State.advance_prevB : s.advance.prevB = s.prevB := by
  unfold State.advance; split <;> rfl
@[simp] theorem State.advance_edgePending : s.advance.edgePending = s.edgePending := by
  unfold State.advance; split <;> rfl
@[simp] theorem State.advance_encPhase : s.advance.encPhase = s.encPhase := by
  unfold State.advance; split <;> rfl
@[simp] theorem State.advance_latchA : s.advance.latchA = s.latchA := by
  unfold State.advance; split <;> rfl
@[simp] theorem State.advance_latchB : s.advance.latchB = s.latchB := by
  unfold State.advance; split <;> rfl
@[simp] theorem State.advance_encCfg : s.advance.encCfg = s.encCfg := by
  unfold State.advance; split <;> rfl
@[simp] theorem State.advance_encFault : s.advance.encFault = s.encFault := by
  unfold State.advance; split <;> rfl
@[simp] theorem State.advance_kpCfg : s.advance.kpCfg = s.kpCfg := by
  unfold State.advance; split <;> rfl
@[simp] theorem State.advance_rowDrive : s.advance.rowDrive = s.rowDrive := by
  unfold State.advance; split <;> rfl
@[simp] theorem State.advance_seq : s.advance.seq = s.seq := by
  unfold State.advance; split <;> rfl
@[simp] theorem State.advance_keysAcc : s.advance.keysAcc = s.keysAcc := by
  unfold State.advance; split <;> rfl
@[simp] theorem State.advance_claimed : s.advance.claimed = s.claimed := by
  unfold State.advance; split <;> rfl
@[simp] theorem State.advance_hostBusy : s.advance.hostBusy = s.hostBusy := by
  unfold State.advance; split <;> rfl
@[simp] theorem State.advance_cmd : s.advance.cmd = s.cmd := by
  unfold State.advance; split <;> rfl
@[simp] theorem State.advance_responses : s.advance.responses = s.responses := by
  unfold State.advance; split <;> rfl
@[simp] theorem State.advance_env : s.advance.env = s.env := by
  unfold State.advance; split <;> rfl
@[simp] theorem State.advance_cfg : s.advance.cfg = s.cfg := by
  unfold State.advance; split <;> rfl
@[simp] theorem State.advance_draw : s.advance.draw = s.draw := by
  unfold State.advance; split <;> rfl

@[simp] theorem State.advance_schedule : s.advance.schedule = s.schedule.tail := by
  unfold State.advance; split <;> simp_all

/-! ### `applyReset` -/

@[simp] theorem State.applyReset_position : s.applyReset.position = 0 := rfl
@[simp] theorem State.applyReset_prevA : s.applyReset.prevA = false := rfl
@[simp] theorem State.applyReset_prevB : s.applyReset.prevB = false := rfl
@[simp] theorem State.applyReset_edgePending : s.applyReset.edgePending = false := rfl
@[simp] theorem State.applyReset_encPhase : s.applyReset.encPhase = .idle := rfl
@[simp] theorem State.applyReset_latchA : s.applyReset.latchA = false := rfl
@[simp] theorem State.applyReset_latchB : s.applyReset.latchB = false := rfl
@[simp] theorem State.applyReset_encCfg : s.applyReset.encCfg = false := rfl
@[simp] theorem State.applyReset_encFault : s.applyReset.encFault = false := rfl
@[simp] theorem State.applyReset_kpCfg : s.applyReset.kpCfg = false := rfl
@[simp] theorem State.applyReset_rowDrive : s.applyReset.rowDrive = Quad.all4 .z := rfl
@[simp] theorem State.applyReset_seq : s.applyReset.seq = .idle := rfl
@[simp] theorem State.applyReset_keysAcc : s.applyReset.keysAcc = 0 := rfl
@[simp] theorem State.applyReset_claimed : s.applyReset.claimed = [] := rfl
@[simp] theorem State.applyReset_hostBusy : s.applyReset.hostBusy = false := rfl
@[simp] theorem State.applyReset_cmd : s.applyReset.cmd = none := rfl
@[simp] theorem State.applyReset_responses : s.applyReset.responses = s.responses := rfl
@[simp] theorem State.applyReset_env : s.applyReset.env = s.env := rfl
@[simp] theorem State.applyReset_cfg : s.applyReset.cfg = s.cfg := rfl
@[simp] theorem State.applyReset_draw : s.applyReset.draw = s.draw := rfl
@[simp] theorem State.applyReset_schedule : s.applyReset.schedule = s.schedule := rfl
@[simp] theorem State.applyReset_clock : s.applyReset.clock = s.clock := rfl

end Sys2Proof.Machine
end

