-- ==== Sys2Proof/Laws/Ops.lean ====
section
/-! SUPPORT. What each shared operation can do, said once. -/

namespace Sys2Proof.Machine

/-! ### Pin access -/

/-- An access succeeds without IO_FAULTS, or when the draw says so. -/
theorem accessOk_iff (s : State) : accessOk s = true ↔ s.cfg.ioFaults = false ∨ s.draw.ok = true := by
  simp [accessOk]

/-- An access fails only under IO_FAULTS and a failing draw. -/
theorem accessOk_false_iff (s : State) :
    accessOk s = false ↔ s.cfg.ioFaults = true ∧ s.draw.ok = false := by
  simp [accessOk]

@[simp] theorem accessOk_withDraw (s : State) (d : Draw) :
    accessOk (s.withDraw d) = (!s.cfg.ioFaults || d.ok) := rfl

theorem gpioRead_of_ok {s : State} (h : accessOk s = true) (l : InputLine) :
    gpioRead s l = some (lineLevel s l) := by
  simp [gpioRead, h]

theorem gpioRead_of_fail {s : State} (h : accessOk s = false) (l : InputLine) :
    gpioRead s l = none := by
  simp [gpioRead, h]

theorem gpioWrite_of_ok {s : State} (h : accessOk s = true) (r : Fin 4) (v : Level) :
    gpioWrite s r v = some { s with rowDrive := s.rowDrive.set r (.level v) } := by
  simp [gpioWrite, h]

theorem gpioWrite_active_of_fail {s : State} (h : accessOk s = false) (r : Fin 4) :
    gpioWrite s r s.cfg.rowActive = none := by
  simp [gpioWrite, h]

/-- A write of the inactive level is the deactivation, and never fails. -/
theorem gpioWrite_inactive (s : State) (r : Fin 4) :
    gpioWrite s r (!s.cfg.rowActive) = some (s.deactivateRow r) := by
  simp [gpioWrite, State.deactivateRow]

/-! ### The lock -/

theorem withLock_of_idle {s : State} (h : s.encPhase = .idle) (i : Instr)
    (f : State → Host.Outcome State Fault Refusal) : withLock i s f = f s := by
  simp [withLock, h]

theorem withLock_of_run {s : State} (h : s.encPhase ≠ .idle) (i : Instr)
    (f : State → Host.Outcome State Fault Refusal) : withLock i s f = .next (s.accept i) := by
  simp [withLock, h]

/-! ### The table -/

/-- The table has an entry for each index, so `tableEntry`'s default is never read. -/
theorem transitionTable_length : transitionTable.length = 16 := rfl

theorem operandInRange_iff {n : Nat} {v : Int} :
    operandInRange n v = true ↔ -(2 : Int) ^ (n - 1) ≤ v ∧ v < 2 ^ (n - 1) := by
  simp [operandInRange]

/-- Zero is in range at every width. -/
theorem operandInRange_zero (n : Nat) : operandInRange n 0 = true := by
  rw [operandInRange_iff]
  have : (0 : Int) < 2 ^ (n - 1) := by positivity
  omega

/-- A power of two is twice the one before. -/
theorem two_pow_pred {n : Nat} (h : 2 ≤ n) : (2 : Int) ^ n = 2 * 2 ^ (n - 1) := by
  obtain ⟨m, rfl⟩ := Nat.exists_eq_add_of_le h
  rw [show 2 + m - 1 = m + 1 by omega, ← pow_succ']
  congr 1; omega

/-- A wrap of a value in range is the value. -/
theorem wrapPosition_of_inRange {n : Nat} {v : Int} (hn : 2 ≤ n)
    (h : operandInRange n v = true) : wrapPosition n v = v := by
  obtain ⟨h1, h2⟩ := operandInRange_iff.1 h
  have hp := two_pow_pred hn
  apply Int.bmod_eq_of_le <;> push_cast <;> omega

/-- A wrap is in range. -/
theorem wrapPosition_inRange {n : Nat} (hn : 2 ≤ n) (x : Int) :
    operandInRange n (wrapPosition n x) = true := by
  have hp := two_pow_pred hn
  have pos : 0 < 2 ^ n := Nat.two_pow_pos n
  have h1 := Int.le_bmod (x := x) pos
  have h2 := Int.bmod_lt (x := x) pos
  rw [operandInRange_iff, wrapPosition]
  push_cast at h1 h2 ⊢
  omega

/-- A delta added to a position in range leaves it in range. -/
theorem applyDelta_inRange {n : Nat} (hn : 2 ≤ n) (d : Delta) {p : Int}
    (h : operandInRange n p = true) : operandInRange n (applyDelta n d p) = true := by
  cases d with
  | amb => exact h
  | minusOne => exact wrapPosition_inRange hn _
  | zero => exact wrapPosition_inRange hn _
  | plusOne => exact wrapPosition_inRange hn _

/-- Wrapping before an addition changes nothing. -/
theorem wrapPosition_wrapPosition_add (n : Nat) (x y : Int) :
    wrapPosition n (wrapPosition n x + y) = wrapPosition n (x + y) := by
  simp [wrapPosition]

/-! ### The scan's outcomes -/

theorem scanActivate_of_ok {s : State} (h : accessOk s = true) (r : Fin 4) :
    scanActivate s r =
      { s with
        rowDrive := s.rowDrive.set r (.level s.cfg.rowActive), seq := .run r 0 .sample } := by
  simp [scanActivate, gpioWrite_of_ok h]

theorem scanActivate_of_fail {s : State} (h : accessOk s = false) (r : Fin 4) :
    scanActivate s r = abortScan s := by
  simp [scanActivate, gpioWrite_active_of_fail h]

theorem scanSample_of_ok {s : State} (h : accessOk s = true) (r c : Fin 4) :
    scanSample s r c =
      { s with
        keysAcc := if lineLevel s (.col c) = s.cfg.colActive then setKey s.keysAcc r c
          else s.keysAcc
        seq := afterSample r c } := by
  simp [scanSample, gpioRead_of_ok h]

theorem scanSample_of_fail {s : State} (h : accessOk s = false) (r c : Fin 4) :
    scanSample s r c = abortScan (s.deactivateRow r) := by
  simp [scanSample, gpioRead_of_fail h]

end Sys2Proof.Machine
end

