-- ==== Sys2Proof/Laws/Exec.lean ====
section
/-! SUPPORT. What each meaning and each turn can do: if it answers a next state, then one of
these. Later proofs cite these and do not unfold the meanings. -/

namespace Sys2Proof.Machine

variable {s u : State}

theorem execKpInit_cases (h : execKpInit s = .next u) :
    (∃ f, claimAll s.cfg s.claimed (kpPinList s.cfg.pins) = .error f ∧ u = s.raise .hwInitError) ∨
    (∃ m, claimAll s.cfg s.claimed (kpPinList s.cfg.pins) = .ok m ∧
      u = State.respond { s with
        claimed := m, rowDrive := Quad.all4 (.level (!s.cfg.rowActive)), kpCfg := true } .ok 0) := by
  unfold execKpInit at h
  split at h
  · exact .inl ⟨_, ‹_›, by cases h; rfl⟩
  · exact .inr ⟨_, ‹_›, by cases h; rfl⟩

theorem execKpScan_cases (h : execKpScan s = .next u) :
    (s.seq = .idle ∧ u = scanIssue s) ∨
    (∃ r c, s.seq = .run r c .act ∧ u = scanActivate s r) ∨
    (∃ r c, s.seq = .run r c .sample ∧ u = scanSample s r c) ∨
    (∃ r c, s.seq = .run r c .deact ∧ u = scanDeactivate s r) := by
  unfold execKpScan at h
  split at h
  · exact .inl ⟨‹_›, by cases h; rfl⟩
  · exact .inr (.inl ⟨_, _, ‹_›, by cases h; rfl⟩)
  · exact .inr (.inr (.inl ⟨_, _, ‹_›, by cases h; rfl⟩))
  · exact .inr (.inr (.inr ⟨_, _, ‹_›, by cases h; rfl⟩))

theorem execKpShutdown_cases (h : execKpShutdown s = .next u) :
    (s.kpCfg = false ∧ u = s.raise .notInitialized) ∨
    (s.kpCfg = true ∧ u = State.respond { s with
      rowDrive := Quad.all4 .z, claimed := releaseAll s.claimed (kpPinList s.cfg.pins)
      kpCfg := false } .ok 0) := by
  unfold execKpShutdown at h
  split at h
  · exact .inr ⟨‹_›, by cases h; rfl⟩
  · exact .inl ⟨Bool.eq_false_iff.2 ‹_›, by cases h; rfl⟩

/-- A command that takes the lock holds, or has its effect. -/
theorem withLock_cases {i : Instr} {f : State → Host.Outcome State Fault Refusal}
    (h : withLock i s f = .next u) :
    (s.encPhase ≠ .idle ∧ u = s.accept i) ∨ (s.encPhase = .idle ∧ f s = .next u) := by
  unfold withLock at h
  split at h
  · exact .inr ⟨‹_›, h⟩
  · exact .inl ⟨‹_›, by cases h; rfl⟩

theorem encInitEffect_cases (h : encInitEffect s = .next u) :
    (∃ f, claimAll s.cfg s.claimed (encPinList s.cfg.pins) = .error f ∧ u = s.raise .hwInitError) ∨
    (∃ m, claimAll s.cfg s.claimed (encPinList s.cfg.pins) = .ok m ∧
      u = State.respond { s with
        claimed := m, position := 0, prevA := false, prevB := false
        edgePending := false, encCfg := true } .ok 0) := by
  unfold encInitEffect at h
  split at h
  · exact .inl ⟨_, ‹_›, by cases h; rfl⟩
  · exact .inr ⟨_, ‹_›, by cases h; rfl⟩

theorem execEncGetbtn_cases (h : execEncGetbtn s = .next u) :
    (s.encCfg = false ∧ u = s.raise .notInitialized) ∨
    (s.encCfg = true ∧ accessOk s = false ∧ u = s.raise .hwReadError) ∨
    (s.encCfg = true ∧ accessOk s = true ∧ u = s.respond .ok (levelData s.env.lvlBtn)) := by
  unfold execEncGetbtn at h
  split at h
  · rcases hk : accessOk s with _ | _
    · rw [gpioRead_of_fail hk] at h
      exact .inr (.inl ⟨‹_›, rfl, by cases h; rfl⟩)
    · rw [gpioRead_of_ok hk] at h
      exact .inr (.inr ⟨‹_›, rfl, by cases h; rfl⟩)
  · exact .inl ⟨Bool.eq_false_iff.2 ‹_›, by cases h; rfl⟩

theorem encShutdownEffect_cases (h : encShutdownEffect s = .next u) :
    (s.encCfg = false ∧ u = s.raise .notInitialized) ∨
    (s.encCfg = true ∧ u = State.respond { s with
      encCfg := false, edgePending := false
      claimed := releaseAll s.claimed (encPinList s.cfg.pins) } .ok 0) := by
  unfold encShutdownEffect at h
  split at h
  · exact .inr ⟨‹_›, by cases h; rfl⟩
  · exact .inl ⟨Bool.eq_false_iff.2 ‹_›, by cases h; rfl⟩

theorem edgeSampleA_of_ok (h : accessOk s = true) :
    edgeSampleA s = { s with edgePending := false, encPhase := .gotA, latchA := s.env.lvlA } := by
  simp [edgeSampleA, gpioRead_of_ok h, lineLevel, State.enterHandler]

theorem edgeSampleA_of_fail (h : accessOk s = false) :
    edgeSampleA s = { s with edgePending := false, encPhase := .idle, encFault := true } := by
  simp [edgeSampleA, gpioRead_of_fail h, State.enterHandler, State.failHandler, State.leaveHandler]

theorem edgeSampleB_of_ok (h : accessOk s = true) :
    edgeSampleB s = { s with latchB := s.env.lvlB, encPhase := .gotB } := by
  simp [edgeSampleB, gpioRead_of_ok h, lineLevel]

theorem edgeSampleB_of_fail (h : accessOk s = false) :
    edgeSampleB s = { s with encPhase := .idle, encFault := true } := by
  simp [edgeSampleB, gpioRead_of_fail h, State.failHandler, State.leaveHandler]

theorem execEncEdge_cases (h : execEncEdge s = .next u) :
    (s.encPhase = .idle ∧ handlerMayStart s = false ∧ u = s) ∨
    (s.encPhase = .idle ∧ s.encCfg = true ∧ s.edgePending = true ∧ u = edgeSampleA s) ∨
    (s.encPhase = .gotA ∧ u = edgeSampleB s) ∨
    (s.encPhase = .gotB ∧ u = edgeCommit s) := by
  unfold execEncEdge at h
  split at h
  · split at h
    · have hm : handlerMayStart s = true := ‹_›
      simp only [handlerMayStart, Bool.and_eq_true] at hm
      exact .inr (.inl ⟨‹_›, hm.1.1, hm.1.2, by cases h; rfl⟩)
    · exact .inl ⟨‹_›, Bool.eq_false_iff.2 ‹_›, by cases h; rfl⟩
  · exact .inr (.inr (.inl ⟨‹_›, by cases h; rfl⟩))
  · exact .inr (.inr (.inr ⟨‹_›, by cases h; rfl⟩))

/-- What a turn can do. -/
theorem takeTurn_cases {t : Turn} (h : takeTurn t s = .next u) :
    (∃ w d, t = .issue w d ∧
      ((s.hostBusy = true ∧ u = s.withDraw d) ∨
       (s.hostBusy = false ∧ ∃ e, decodeHostWord s.cfg.width w = .error e ∧
          u = (s.withDraw d).raise .illegalCommand) ∨
       (s.hostBusy = false ∧ ∃ i, decodeHostWord s.cfg.width w = .ok i ∧
         exec i (s.withDraw d) = .next u))) ∨
    (∃ d, t = .cont d ∧
      (((s.hostBusy = false ∨ s.cmd = none) ∧ u = s.withDraw d) ∨
       (s.hostBusy = true ∧ ∃ i, s.cmd = some i ∧ exec i (s.withDraw d) = .next u))) ∨
    (∃ d, t = .edge d ∧ execEncEdge (s.withDraw d) = .next u) ∨
    (∃ e, t = .env e ∧ u = s.envStep e) ∨
    (t = .reset ∧ u = s.applyReset) := by
  cases t with
  | issue w d =>
    refine .inl ⟨w, d, rfl, ?_⟩
    simp only [takeTurn, issueCommand, State.withDraw_hostBusy, State.withDraw_cfg] at h
    rcases hb : s.hostBusy with _ | _
    · rcases hd : decodeHostWord s.cfg.width w with e | i
      · simp only [hb, hd] at h
        exact .inr (.inl ⟨rfl, e, rfl, by cases h; rfl⟩)
      · simp only [hb, hd] at h
        exact .inr (.inr ⟨rfl, i, rfl, h⟩)
    · simp only [hb] at h
      exact .inl ⟨rfl, by cases h; rfl⟩
  | cont d =>
    refine .inr (.inl ⟨d, rfl, ?_⟩)
    simp only [takeTurn, continueCommand, State.withDraw_hostBusy, State.withDraw_cmd] at h
    rcases hb : s.hostBusy with _ | _
    · simp only [hb] at h
      exact .inl ⟨.inl rfl, by cases h; rfl⟩
    · rcases hc : s.cmd with _ | i
      · simp only [hb, hc] at h
        exact .inl ⟨.inr rfl, by cases h; rfl⟩
      · simp only [hb, hc] at h
        exact .inr ⟨rfl, i, rfl, h⟩
  | edge d => exact .inr (.inr (.inl ⟨d, rfl, h⟩))
  | env e => exact .inr (.inr (.inr (.inl ⟨e, rfl, by cases h; rfl⟩)))
  | reset => exact .inr (.inr (.inr (.inr ⟨rfl, by cases h; rfl⟩)))

/-- A step is a turn taken on the state whose turn is used up. -/
theorem step_eq_takeTurn (s : State) : step s = takeTurn (nextTurn s) s.advance := rfl

end Sys2Proof.Machine
end

