-- ==== Sys2Proof/Laws/Invariant.lean ====
section
/-! SUPPORT. Changes of the state that the invariant does not look at. -/

namespace Sys2Proof.Machine

variable {s u : State}

/-- At rest no row is active. -/
theorem restRows_inactive (s : State) (i : Fin 4) :
    (restRows s).get i ≠ .level s.cfg.rowActive := by
  simp only [restRows]; split <;> simp

theorem restRows_congr (h1 : u.kpCfg = s.kpCfg) (h2 : u.cfg = s.cfg) : restRows u = restRows s := by
  simp [restRows, h1, h2]

theorem expectedRows_congr (h1 : u.kpCfg = s.kpCfg) (h2 : u.cfg = s.cfg) (h3 : u.seq = s.seq) :
    expectedRows u = expectedRows s := by
  simp [expectedRows, restRows_congr h1 h2, h2, h3]

/-- The invariant speaks of these fields only. -/
theorem Inv.congr (hi : Inv s) (hpos : operandInRange s.cfg.width u.position = true)
    (hdata : ∀ r ∈ u.responses, r.rdata < 2 ^ dataWidth s.cfg.width)
    (hclaimed : u.claimed = s.claimed)
    (hbusy : u.hostBusy = s.hostBusy) (hcmd : u.cmd = s.cmd) (hseq : u.seq = s.seq)
    (hkp : u.kpCfg = s.kpCfg) (hrow : u.rowDrive = s.rowDrive) (henc : u.encCfg = s.encCfg)
    (hcfg : u.cfg = s.cfg) (hphase : u.encPhase ≠ .idle → u.encCfg = true)
    (hpend : u.edgePending = true → u.encCfg = true) : Inv u where
  position := by rw [hcfg]; exact hpos
  data := by rw [hcfg]; exact hdata
  claims := hclaimed ▸ hi.claims
  busy := by rw [hbusy, hcmd]; exact hi.busy
  unanswered := by rw [hcmd]; exact hi.unanswered
  operand := by rw [hcmd, hcfg]; exact hi.operand
  scan := by rw [hcmd, hseq]; exact hi.scan
  scanCfg := by rw [hseq, hkp]; exact hi.scanCfg
  rows := by rw [hrow, expectedRows_congr hkp hcfg hseq]; exact hi.rows
  handler := hphase
  pending := hpend
  kpClaims := by rw [hkp, hclaimed, hcfg]; exact hi.kpClaims
  encClaims := by rw [henc, hclaimed, hcfg]; exact hi.encClaims
  ownClaims := by rw [hclaimed, hkp, henc, hcfg]; exact hi.ownClaims

theorem Inv.withDraw (hi : Inv s) (d : Draw) : Inv (s.withDraw d) :=
  hi.congr hi.position hi.data rfl rfl rfl rfl rfl rfl rfl rfl hi.handler hi.pending

theorem Inv.advance (hi : Inv s) : Inv s.advance := by
  refine hi.congr ?_ ?_ ?_ ?_ ?_ ?_ ?_ ?_ ?_ ?_ ?_ ?_ <;> simp only [State.advance_position,
    State.advance_responses, State.advance_claimed, State.advance_hostBusy, State.advance_cmd,
    State.advance_seq, State.advance_kpCfg, State.advance_rowDrive, State.advance_encCfg,
    State.advance_cfg, State.advance_encPhase, State.advance_edgePending]
  · exact hi.position
  · exact hi.data
  · exact hi.handler
  · exact hi.pending

/-- A scan in progress is the accepted command. -/
theorem Inv.scanning (hi : Inv s) (h : s.seq ≠ .idle) :
    s.hostBusy = true ∧ s.cmd = some .kpScan := by
  have hc := hi.scan.2 h
  exact ⟨by rw [hi.busy, hc]; rfl, hc⟩

end Sys2Proof.Machine
end

