-- ==== Sys2Proof/Laws/PerInstr.lean ====
section
/-! SUPPORT. One family of statements made per instruction: the fields of an encoding. -/

namespace Sys2Proof.Laws.EncodedFields

/-- At every width the encoding holds the instruction's opcode and its operand in their fields, and
its SPACE bit says whether HOST may issue it. 30_encoding.md R70, R72, R78. -/
def Statement (i : Instr) : Prop :=
  ∀ n : Nat, opcField (encode n i) = opcodeOf i ∧ dataField (encode n i) = operandBits n i ∧
    spaceField (opcField (encode n i)) = !i.hostCommand

theorem opcField_append {n : Nat} (p : BitVec n) (o : Opcode) :
    opcField (n := n) (p ++ o) = o := by
  apply BitVec.eq_of_getLsbD_eq
  intro k hk
  simp [opcField, BitVec.getLsbD_append, hk]

theorem dataField_append {n : Nat} (p : BitVec n) (o : Opcode) :
    dataField (n := n) (p ++ o) = p := by
  apply BitVec.eq_of_getLsbD_eq
  intro k hk
  rw [dataField, BitVec.getLsbD_extractLsb']
  simp [BitVec.getLsbD_append, hk]

theorem of_space {i : Instr} (h : spaceField (opcodeOf i) = !i.hostCommand) : Statement i := by
  intro n
  refine ⟨opcField_append _ _, dataField_append _ _, ?_⟩
  rw [show opcField (encode n i) = opcodeOf i from opcField_append _ _]
  exact h

theorem kpInit : Statement .kpInit := of_space rfl
theorem kpScan : Statement .kpScan := of_space rfl
theorem kpShutdown : Statement .kpShutdown := of_space rfl
theorem encInit : Statement .encInit := of_space rfl
theorem encGetpos : Statement .encGetpos := of_space rfl
theorem encSetpos (value : Int) : Statement (.encSetpos value) :=
  of_space (show spaceField 0x13#8 = !true from rfl)
theorem encGetbtn : Statement .encGetbtn := of_space rfl
theorem encShutdown : Statement .encShutdown := of_space rfl
theorem encEdge : Statement .encEdge := of_space rfl

end Sys2Proof.Laws.EncodedFields
end

