-- ==== Sys2Proof/Laws/Runs.lean ====
section
/-! SUPPORT. What the host port's decoder lets through, the frames of the two operations of more
than one step, and what a turn of a run does. -/

namespace Sys2Proof.Machine

variable {s u : State}

/-! ### The host port -/

/-- The OPC of a command word is the low byte of the lines. -/
@[simp] theorem opcField_commandWord (n w : Nat) :
    opcField (commandWord n w) = BitVec.ofNat 8 w := by
  apply BitVec.eq_of_getLsbD_eq
  intro k hk
  simp only [opcField, commandWord, BitVec.getLsbD_extractLsb', BitVec.getLsbD_ofNat, Nat.zero_add]
  simp [hk]; omega

/-- The DATA of a command word is the rest of the lines. -/
@[simp] theorem dataField_commandWord (n w : Nat) :
    dataField (commandWord n w) = BitVec.ofNat n (w / 2 ^ 8) := by
  apply BitVec.eq_of_getLsbD_eq
  intro k hk
  simp only [dataField, commandWord, BitVec.getLsbD_extractLsb', BitVec.getLsbD_ofNat,
    Nat.testBit_div_two_pow]
  simp [hk, Nat.add_comm]

/-- A word that the host port accepts is a well-formed instruction. -/
theorem decodeHost_wellFormed {n : Nat} {w : Command n} {i : Instr} (hn : 2 ≤ n)
    (h : decodeHost w = .ok i) : i.wellFormed n = true := by
  simp only [decodeHost, decode] at h
  split at h
  · cases h
  · split at h <;> cases h <;> simp only [Instr.wellFormed]
    rw [operandInRange_iff]
    have hp := two_pow_pred hn
    have h1 := BitVec.le_two_mul_toInt (x := dataField w)
    have h2 := BitVec.two_mul_toInt_lt (x := dataField w)
    omega

/-- The host port never yields ENC.EDGE. -/
theorem decodeHost_ne_encEdge {n : Nat} {w : Command n} : decodeHost w ≠ .ok .encEdge := by
  intro h
  simp only [decodeHost, decode] at h
  split at h
  · cases h
  · split at h <;> simp_all [spaceField]

/-! ### Frames -/

/-- A step of KP.SCAN leaves the claims, ENV, and the turns to come. -/
theorem execKpScan_frame (h : execKpScan s = .next u) :
    u.env = s.env ∧ u.claimed = s.claimed ∧ u.kpCfg = s.kpCfg ∧
      u.schedule = s.schedule ∧ u.clock = s.clock := by
  rcases execKpScan_cases h with ⟨_, rfl⟩ | ⟨_, _, _, rfl⟩ | ⟨_, _, _, rfl⟩ | ⟨_, _, _, rfl⟩
  · unfold scanIssue; split <;> simp
  · rcases ha : accessOk s with _ | _
    · simp [scanActivate_of_fail ha, abortScan]
    · simp [scanActivate_of_ok ha]
  · rcases ha : accessOk s with _ | _
    · simp [scanSample_of_fail ha, abortScan]
    · simp [scanSample_of_ok ha]
  · unfold scanDeactivate; split <;> simp

/-- A micro-step of ENC.EDGE leaves the host port, the keypad unit, the claims and ENV. -/
theorem execEncEdge_frame (h : execEncEdge s = .next u) :
    u.env = s.env ∧ u.cmd = s.cmd ∧ u.hostBusy = s.hostBusy ∧ u.responses = s.responses ∧
      u.seq = s.seq ∧ u.keysAcc = s.keysAcc ∧ u.rowDrive = s.rowDrive ∧ u.kpCfg = s.kpCfg ∧
      u.claimed = s.claimed ∧ u.encCfg = s.encCfg := by
  rcases execEncEdge_cases h with ⟨-, -, rfl⟩ | ⟨-, -, -, rfl⟩ | ⟨-, rfl⟩ | ⟨-, rfl⟩
  · simp
  · rcases ha : accessOk s with _ | _
    · simp [edgeSampleA_of_fail ha]
    · simp [edgeSampleA_of_ok ha]
  · rcases ha : accessOk s with _ | _
    · simp [edgeSampleB_of_fail ha]
    · simp [edgeSampleB_of_ok ha]
  · simp [edgeCommit]

/-! ### Turns -/

theorem afterTurn_of_next {t : Turn} (h : takeTurn t s = .next u) : afterTurn s t = u := by
  simp [afterTurn, h]

theorem afterTurns_append (s : State) (ts ts' : List Turn) :
    afterTurns s (ts ++ ts') = afterTurns (afterTurns s ts) ts' := by
  simp [afterTurns]

/-- A turn executes the instruction `turnInstr` names, or it is a turn without one: a turn that is
no step, an illegal word, a step of ENV, or a reset. -/
theorem takeTurn_instr {t : Turn} (h : takeTurn t s = .next u) :
    (∃ i d, turnInstr t s = some i ∧ exec i (s.withDraw d) = .next u ∧
      (t = .edge d ∨ (∃ w, t = .issue w d ∧ s.hostBusy = false) ∨
        (t = .cont d ∧ s.hostBusy = true ∧ s.cmd = some i))) ∨
    (turnInstr t s = none ∧
      ((∃ d, u = s.withDraw d) ∨
       (∃ w d, t = .issue w d ∧ s.hostBusy = false ∧ u = (s.withDraw d).raise .illegalCommand) ∨
       (∃ e, t = .env e ∧ u = s.envStep e) ∨ (t = .reset ∧ u = s.applyReset))) := by
  rcases takeTurn_cases h with ⟨w, d, rfl, ⟨hb, rfl⟩ | ⟨hb, e, hd, rfl⟩ | ⟨hb, i, hd, h⟩⟩ |
    ⟨d, rfl, ⟨hb, rfl⟩ | ⟨hb, i, hc, h⟩⟩ | ⟨d, rfl, h⟩ | ⟨e, rfl, rfl⟩ | ⟨rfl, rfl⟩
  · exact .inr ⟨by simp [turnInstr, hb], .inl ⟨d, rfl⟩⟩
  · exact .inr ⟨by simp [turnInstr, hb, hd, Except.toOption], .inr (.inl ⟨w, d, rfl, hb, rfl⟩)⟩
  · exact .inl ⟨i, d, by simp [turnInstr, hb, hd, Except.toOption], h, .inr (.inl ⟨w, rfl, hb⟩)⟩
  · refine .inr ⟨?_, .inl ⟨d, rfl⟩⟩
    rcases hb with hb | hb <;> simp [turnInstr, hb]
  · exact .inl ⟨i, d, by simp [turnInstr, hb, hc], h, .inr (.inr ⟨rfl, hb, hc⟩)⟩
  · exact .inl ⟨.encEdge, d, rfl, h, .inl rfl⟩
  · exact .inr ⟨rfl, .inr (.inr (.inl ⟨e, rfl, rfl⟩))⟩
  · exact .inr ⟨rfl, .inr (.inr (.inr ⟨rfl, rfl⟩))⟩

end Sys2Proof.Machine
end

