-- ==== Sys2Proof/Tests/Slice0.lean ====
section
/-! SUPPORT. Tests: ill-formed terms, decoding of words written out from the spec, one step on
small states with results taken from 95_test_vectors.md, and for each statement with hypotheses a
state and operands that meet them together. -/

namespace Sys2Proof.Tests

open Sys2Proof.Machine

/-! ### Small states -/

/-- The next state of an outcome, if it is one. -/
def nextOf : Host.Outcome State Fault Refusal → Option State
  | .next u => some u
  | .fault _ => none
  | .refused _ => none

/-- After a successful KP.INIT from reset (40_keypad.md R103's example). -/
def kpUp : State :=
  { State.reset with
    kpCfg := true
    rowDrive := Quad.all4 (.level false)
    claimed := [(0, .out), (1, .out), (2, .out), (3, .out), (4, .inp), (5, .inp), (6, .inp),
      (7, .inp)] }

/-- After a successful ENC.INIT from reset (41_encoder.md R133's example). -/
def encUp : State :=
  { State.reset with
    encCfg := true
    claimed := [(8, .inEdgePu), (9, .inEdgePu), (10, .inPlain)] }

/-- Both units initialized. -/
def bothUp : State :=
  { kpUp with
    encCfg := true
    claimed := kpUp.claimed ++ encUp.claimed }

/-- The state with IO_FAULTS, its next access failing. -/
def failing (s : State) : State :=
  { s with cfg := { s.cfg with ioFaults := true }, draw := ⟨false, false⟩ }

/-- The state with one key held down. -/
def withKey (s : State) (r c : Fin 4) : State :=
  { s with env := { s.env with pressed := s.env.pressed.set r ((s.env.pressed.get r).set c true) } }

/-- A scan in progress at a triple, its row driven as 40_keypad.md R106 says. -/
def scanning (s : State) (r c : Fin 4) (k : ScanStep) : State :=
  { s with
    seq := .run r c k
    rowDrive := expectedRows { s with seq := .run r c k }
    hostBusy := true
    cmd := some .kpScan }

/-- The lines A and B at the given levels with an edge owed. -/
def edged (s : State) (a b : Level) : State :=
  { s with env := { s.env with lvlA := a, lvlB := b }, edgePending := true }

/-- A handler run about to commit the latched levels. -/
def latched (s : State) (a b : Level) : State :=
  { s with encPhase := .gotB, latchA := a, latchB := b }

/-- The draw of an access that succeeds. -/
def okDraw : Draw := ⟨true, false⟩

/-- The draw of an access that fails under IO_FAULTS. -/
def badDraw : Draw := ⟨false, false⟩

/-! ### WellFormed: ill-formed terms are refused -/

theorem test_illformed_above : (Instr.encSetpos 2147483648).wellFormed 32 = false := by decide
theorem test_illformed_below : (Instr.encSetpos (-2147483649)).wellFormed 32 = false := by decide
theorem test_wellformed_ends :
    (Instr.encSetpos 2147483647).wellFormed 32 = true ∧
    (Instr.encSetpos (-2147483648)).wellFormed 32 = true := by decide
theorem test_edge_is_no_host_command : Instr.encEdge.hostCommand = false := by decide
/-- 40_keypad.md R100: a grid that names a label twice is no KEYMAP. -/
theorem test_illformed_keymap :
    gridBijective ⟨⟨.k1, .k1, .k3, .kA⟩, ⟨.k4, .k5, .k6, .kB⟩, ⟨.k7, .k8, .k9, .kC⟩,
      ⟨.kStar, .k0, .kHash, .kD⟩⟩ = false := by decide

/-! ### Decode: words of 95_test_vectors.md 2.1, OPC bits written out from 30_encoding.md R72 -/

theorem test_decode_kpInit :
    decode (0#32 ++ 0b00000001#8) = .ok .kpInit := by decide
theorem test_decode_kpScan :
    decode (0xFFFFFFFF#32 ++ 0b00000010#8) = .ok .kpScan := by decide
theorem test_decode_kpShutdown :
    decode (0#32 ++ 0b00000011#8) = .ok .kpShutdown := by decide
theorem test_decode_encInit :
    decode (0#32 ++ 0b00010001#8) = .ok .encInit := by decide
theorem test_decode_encGetpos :
    decode (0x12345678#32 ++ 0b00010010#8) = .ok .encGetpos := by decide
theorem test_decode_encSetpos :
    decode (5#32 ++ 0b00010011#8) = .ok (.encSetpos 5) := by decide
theorem test_decode_encSetpos_min :
    decode 0x8000000013#40 = .ok (.encSetpos (-2147483648)) := by decide
theorem test_decode_encGetbtn :
    decode (0#32 ++ 0b00010100#8) = .ok .encGetbtn := by decide
theorem test_decode_encShutdown :
    decode (0#32 ++ 0b00010101#8) = .ok .encShutdown := by decide
theorem test_decode_encEdge :
    decode (0#32 ++ 0b10000000#8) = .ok .encEdge ∧
    decodeHost 0x0000000080#40 = .error .internalSpace := by decide
theorem test_decode_illegal :
    decodeHost 0x0000000000#40 = .error .unassigned ∧
    decodeHost 0x0000000004#40 = .error .unassigned ∧
    decodeHost 0x0000000010#40 = .error .unassigned ∧
    decodeHost 0x0000000016#40 = .error .unassigned ∧
    decodeHost 0x0000000021#40 = .error .unassigned ∧
    decodeHost 0x00000000FF#40 = .error .internalSpace := by decide
theorem test_encode_setpos :
    encode 32 (.encSetpos (-1)) = 0xFFFFFFFF13#40 ∧
    encode 32 (.encSetpos 2147483647) = 0x7FFFFFFF13#40 := by decide
theorem test_table_word : decodeTableWord 40 0x0000000513 = some (.encSetpos 5) := by decide

/-! ### The assembler: the checks of 95_test_vectors.md 2.1 -/

theorem test_asm_out_of_range :
    assembleLine 32 "ENC.SETPOS 2147483648".toList = .refused := by decide
theorem test_asm_pattern :
    assembleLine 32 "ENC.SETPOS 0xFFFFFFFF ; minus one".toList = .command 0xFFFFFFFF13#40 := by decide
theorem test_asm_negative :
    assembleLine 32 "ENC.SETPOS -3".toList = .command 0xFFFFFFFD13#40 := by decide
theorem test_asm_operand_on_format_c : assembleLine 32 "KP.SCAN 3".toList = .refused := by decide
theorem test_asm_edge : assembleLine 32 "ENC.EDGE".toList = .refused := by decide
theorem test_asm_comment : assembleLine 32 "; KP.SCAN".toList = .nothing := by decide

/-! ### Unit KP, 95_test_vectors.md 2.2 and 2.4 -/

/-- R103's example. -/
theorem test_kpInit_from_reset :
    nextOf (exec .kpInit State.reset) = some { kpUp with responses := [⟨.ok, 0⟩] } := by decide
/-- V-X4: ROW_PIN[1] = ROW_PIN[2]. -/
theorem test_kpInit_pin_twice :
    (nextOf (exec .kpInit { State.reset with
      cfg := { Config.default with pins := { Config.default.pins with row := ⟨0, 1, 1, 3⟩ } } })).map
        (fun u => (u.responses, u.claimed)) = some ([⟨.hwInitError, 0⟩], []) := by decide
/-- V-K16: active-low pins, sample (2, 1) of a pressed key. -/
theorem test_kpScan_active_low :
    lineLevel (scanning (withKey { kpUp with
      cfg := { Config.default with rowActive := false, colActive := false } } 2 1) 2 1 .sample)
      (.col 1) = false ∧
    lineLevel (scanning (withKey { kpUp with
      cfg := { Config.default with rowActive := false, colActive := false } } 2 1) 2 0 .sample)
      (.col 0) = true := by decide
/-- V-K13, the 9th micro-step. -/
theorem test_kpScan_read_failure :
    (nextOf (exec .kpScan (scanning (failing kpUp) 1 2 .sample))).map
      (fun u => (u.responses, u.rowDrive, u.seq)) =
      some ([⟨.hwReadError, 0⟩], Quad.all4 (.level false), .idle) := by decide
/-- T3's sample (2, 1). -/
theorem test_kpScan_samples_key_eight :
    (nextOf (exec .kpScan (scanning (withKey kpUp 2 1) 2 1 .sample))).map
      (fun u => (u.keysAcc, u.seq)) = some (0x0200#16, .run 2 2 .sample) := by decide
/-- V-K7: rows 0 and 1 joined through column 0; the sample (1, 1) is a free draw, (1, 2) is not. -/
theorem test_ghost_is_free :
    ∀ free : Level,
      columnLevel Config.default ((Quad.all4 (.level false)).set 1 (.level true))
        (withKey (withKey (withKey kpUp 0 0) 0 1) 1 0).env.pressed free 1 = free ∧
      columnLevel Config.default ((Quad.all4 (.level false)).set 1 (.level true))
        (withKey (withKey (withKey kpUp 0 0) 0 1) 1 0).env.pressed free 2 = false := by decide
/-- T1's KEYS value under the default grid. -/
theorem test_labels : labels KeyMap.default 0x00C0#16 = [.k6, .kB] := by decide
/-- V-K17. -/
theorem test_kpShutdown :
    (nextOf (exec .kpShutdown kpUp)).map (fun u => (u.responses, u.rowDrive, u.claimed, u.kpCfg)) =
      some ([⟨.ok, 0⟩], Quad.all4 .z, [], false) := by decide
theorem test_kpShutdown_again :
    (nextOf (exec .kpShutdown State.reset)).map (·.responses) = some [⟨.notInitialized, 0⟩] := by
  decide

/-! ### Unit ENC, 95_test_vectors.md 2.3 and 2.4 -/

/-- R133's example. -/
theorem test_encInit_from_reset :
    nextOf (exec .encInit State.reset) = some { encUp with responses := [⟨.ok, 0⟩] } := by decide
/-- V-E12: a failed init does not reset the triple. -/
theorem test_encInit_twice :
    (nextOf (exec .encInit { encUp with position := 7 })).map (fun u => (u.responses, u.position)) =
      some ([⟨.hwInitError, 0⟩], 7) := by decide
/-- V-E8: a command issued during a run holds. -/
theorem test_encGetpos_holds :
    (nextOf (exec .encGetpos { encUp with encPhase := .gotA })).map
      (fun u => (u.responses, u.hostBusy, u.cmd)) = some ([], true, some .encGetpos) := by decide
/-- V-E13. -/
theorem test_encGetpos_unconfigured :
    (nextOf (exec .encGetpos { State.reset with position := -4 })).map (·.responses) =
      some [⟨.ok, 0xFFFFFFFC⟩] := by decide
/-- V-E16: ENC.ZERO leaves prev. -/
theorem test_encSetpos_leaves_prev :
    (nextOf (exec (.encSetpos 0) { encUp with position := 1, prevA := true })).map
      (fun u => (u.position, u.prevA, u.prevB)) = some (0, true, false) := by decide
/-- T7. -/
theorem test_encGetbtn :
    (nextOf (exec .encGetbtn { encUp with env := { encUp.env with lvlBtn := true } })).map
      (·.responses) = some [⟨.ok, 1⟩] := by decide
/-- V-E15. -/
theorem test_encGetbtn_read_failure :
    (nextOf (exec .encGetbtn (failing encUp))).map (·.responses) = some [⟨.hwReadError, 0⟩] := by
  decide
/-- V-E13. -/
theorem test_encShutdown :
    (nextOf (exec .encShutdown { encUp with position := 7, edgePending := true })).map
      (fun u => (u.position, u.encCfg, u.edgePending, u.claimed)) =
      some (7, false, false, []) := by decide
/-- V-E1: the wrap up. -/
theorem test_edge_wraps_up :
    (nextOf (exec .encEdge (latched { encUp with position := 2147483647 } true false))).map
      (fun u => (u.position, u.prevA, u.prevB, u.encPhase)) =
      some (-2147483648, true, false, .idle) := by decide
/-- 41_encoder.md R131 and 30_encoding.md R76 at `POS_WIDTH` 8: the wrap up, and the sign-extended
datum of `DW` = 16 bits. -/
theorem test_width_eight :
    applyDelta 8 .plusOne 127 = -128 ∧ applyDelta 8 .minusOne (-128) = 127 ∧
    positionData 8 (-1) = 0xFFFF ∧ decode 0x8013#16 = .ok (.encSetpos (-128)) := by decide
/-- V-E10. -/
theorem test_edge_read_failure :
    (nextOf (exec .encEdge (edged (failing encUp) true false))).map
      (fun u => (faultOutput u, u.encPhase, u.edgePending, u.position, u.prevA)) =
      some (true, .idle, false, 0, false) := by decide
/-- T8: the deltas and the 2-bit codes of the 16 entries. -/
theorem test_table_fixture :
    (List.range 16).map (fun n => tableEntry (BitVec.ofNat 4 n)) =
      [.zero, .minusOne, .plusOne, .amb, .plusOne, .zero, .amb, .minusOne,
       .minusOne, .amb, .zero, .plusOne, .amb, .plusOne, .minusOne, .zero] ∧
    (List.range 16).map (fun n => romCode (BitVec.ofNat 4 n)) =
      [0b00, 0b11, 0b01, 0b10, 0b01, 0b00, 0b10, 0b11,
       0b11, 0b10, 0b00, 0b01, 0b10, 0b01, 0b11, 0b00] := by decide

/-! ### Turns -/

/-- V-X1: an illegal word is answered at once, during a handler run. -/
theorem test_illegal_beats_hold :
    (nextOf (takeTurn (.issue 0x0000000080 okDraw) { encUp with encPhase := .gotA })).map
      (fun u => (u.responses, u.encPhase)) = some ([⟨.illegalCommand, 0⟩], .gotA) := by decide
/-- V-E11: an edge before init is lost. -/
theorem test_edge_before_init :
    (nextOf (takeTurn (.env { Env.atReset with lvlA := true }) State.reset)).map
      (·.edgePending) = some false := by decide
/-- V-R1: a reset in a scan. -/
theorem test_reset_mid_scan :
    nextOf (takeTurn .reset (scanning (withKey kpUp 2 1) 2 1 .sample)) =
      some { State.reset with env := (withKey kpUp 2 1).env } := by decide

/-! ### Witnesses: states and operands that meet a statement's hypotheses together -/

/-- Both units configured, nothing in progress. -/
theorem inv_bothUp : Inv bothUp where
  position := by decide
  data := by intro r h; cases h
  claims := by decide
  busy := by decide
  unanswered := by intro i h; cases h
  operand := by intro i h; cases h
  scan := by decide
  scanCfg := by decide
  rows := by decide
  handler := by decide
  pending := by decide
  kpClaims := by decide
  encClaims := by decide
  ownClaims := by
    intro p m h
    have hm : (p, m) ∈ bothUp.claimed := by
      revert h
      generalize bothUp.claimed = l
      induction l with
      | nil => intro h; cases h
      | cons e rest ih =>
        intro h
        simp only [claimMode] at h
        split at h
        · rename_i hq; cases h; exact hq ▸ List.mem_cons_self
        · exact List.mem_cons_of_mem _ (ih h)
    have split : ∀ e ∈ bothUp.claimed, e ∈ kpPinList bothUp.cfg.pins ∨
        e ∈ encPinList bothUp.cfg.pins := by decide
    rcases split _ hm with h' | h'
    · exact .inl ⟨rfl, h'⟩
    · exact .inr ⟨rfl, h'⟩

/-- A scan and a handler run in progress together, or one of them. -/
theorem inv_scanning (r c : Fin 4) (k : ScanStep) (ph : EncPhase) :
    Inv (scanning { bothUp with encPhase := ph } r c k) where
  position := inv_bothUp.position
  data := inv_bothUp.data
  claims := inv_bothUp.claims
  busy := rfl
  unanswered := by rintro i ⟨⟩; exact .inl rfl
  operand := by rintro i ⟨⟩; rfl
  scan := ⟨fun _ h => (by cases h), fun _ => rfl⟩
  scanCfg := fun _ => rfl
  rows := rfl
  handler := fun _ => rfl
  pending := fun _ => rfl
  kpClaims := inv_bothUp.kpClaims
  encClaims := inv_bothUp.encClaims
  ownClaims := inv_bothUp.ownClaims

/-- The same, an access failing. -/
theorem inv_scanning_failing (r c : Fin 4) (k : ScanStep) :
    Inv (scanning (failing bothUp) r c k) where
  position := inv_bothUp.position
  data := inv_bothUp.data
  claims := inv_bothUp.claims
  busy := rfl
  unanswered := by rintro i ⟨⟩; exact .inl rfl
  operand := by rintro i ⟨⟩; rfl
  scan := ⟨fun _ h => (by cases h), fun _ => rfl⟩
  scanCfg := fun _ => rfl
  rows := rfl
  handler := fun h => absurd rfl h
  pending := fun h => by cases h
  kpClaims := inv_bothUp.kpClaims
  encClaims := inv_bothUp.encClaims
  ownClaims := inv_bothUp.ownClaims

/-- Both units configured, ENC.GETPOS held by a handler run. -/
def held : State :=
  { bothUp with encPhase := .gotA, hostBusy := true, cmd := some .encGetpos }

theorem inv_held : Inv held where
  position := inv_bothUp.position
  data := inv_bothUp.data
  claims := inv_bothUp.claims
  busy := rfl
  unanswered := by rintro i ⟨⟩; exact .inr rfl
  operand := by rintro i ⟨⟩; rfl
  scan := ⟨fun h => (by cases h), fun h => absurd rfl h⟩
  scanCfg := fun h => absurd rfl h
  rows := by decide
  handler := fun _ => rfl
  pending := fun h => by cases h
  kpClaims := inv_bothUp.kpClaims
  encClaims := inv_bothUp.encClaims
  ownClaims := inv_bothUp.ownClaims

/-- Nothing configured, a position kept. -/
def unclaimed : State := { State.reset with position := 7 }

theorem inv_unclaimed : Inv unclaimed where
  position := by decide
  data := by intro r h; cases h
  claims := rfl
  busy := rfl
  unanswered := by intro i h; cases h
  operand := by intro i h; cases h
  scan := ⟨fun h => (by cases h), fun h => absurd rfl h⟩
  scanCfg := fun h => absurd rfl h
  rows := by decide
  handler := fun h => absurd rfl h
  pending := fun h => by cases h
  kpClaims := fun h => by cases h
  encClaims := fun h => by cases h
  ownClaims := by intro p m h; cases h

theorem witness_DecodeOfEncodeIsTheInstruction :
    (Instr.encSetpos (-2147483648)).wellFormed 32 = true ∧
    (Instr.encSetpos 2147483647).wellFormed 32 = true ∧
    (Instr.encSetpos (-2147483648)).hostCommand = true ∧
    Instr.encEdge.wellFormed 32 = true := by decide
theorem witness_EncodeOfDecodeIsTheCanonicalWord :
    decode 0xFFFFFFFF15#40 = .ok .encShutdown ∧
    decode 0x7FFFFFFF13#40 = .ok (.encSetpos 2147483647) := by decide
theorem witness_DataIgnoredOutsideSetpos :
    opcField 0x0000000001#40 = opcField 0xFFFFFFFF01#40 ∧ opcField 0x0000000001#40 ≠ 0x13#8 := by
  decide
theorem witness_AssemblerWritesTheEncoding :
    2 ≤ 32 ∧ (Instr.encSetpos (-2147483648)).wellFormed 32 = true ∧
    lineOf (.encSetpos (-2147483648)) = some "ENC.SETPOS -2147483648".toList ∧
    [(2 : Fin 10), 1, 4, 7, 4, 8, 3, 6, 4, 8] ≠ [] ∧ [0x8#4, 0#4] ≠ [] ∧
    assembleLine 32 "KP.SCAN".toList = .command 0x0000000002#40 := by decide

/-- One state for each clause. -/
theorem witness_StepRunsTheDecodedInstruction :
    (∃ s : State, s.schedule = [.issue 0x0000000012 okDraw] ∧ s.hostBusy = false ∧
      decodeHostWord s.cfg.width 0x0000000012 = .ok .encGetpos) ∧
    (∃ s : State, s.schedule = [.cont okDraw] ∧ s.hostBusy = true ∧ s.cmd = some .kpScan) ∧
    (∃ s : State, s.schedule = [.edge okDraw]) ∧
    (∃ s : State, s.schedule = [.env Env.atReset]) ∧
    (∃ s : State, s.schedule = [.reset]) ∧ State.reset.schedule = [] :=
  ⟨⟨{ State.reset with schedule := [.issue 0x0000000012 okDraw] }, by decide⟩,
   ⟨{ scanning kpUp 0 0 .act with schedule := [.cont okDraw] }, by decide⟩,
   ⟨{ State.reset with schedule := [.edge okDraw] }, rfl⟩,
   ⟨{ State.reset with schedule := [.env Env.atReset] }, rfl⟩,
   ⟨{ State.reset with schedule := [.reset] }, rfl⟩, rfl⟩
theorem witness_PlacedWordRunsNext :
    decodeWord State.reset.cfg.width (0x8000000013 % 2 ^ 40) =
      .ok (.encSetpos (-2147483648)) ∧
    decodeWord State.reset.cfg.width (0x80 % 2 ^ 8) = .ok .encEdge ∧
    State.reset.cfg.width = 32 := by decide
theorem witness_IllegalCommandChangesNothing :
    State.reset.hostBusy = false ∧
    opcField (commandWord State.reset.cfg.width 0) = 0x00#8 ∧
    opcField (commandWord State.reset.cfg.width 0xFFFFFFFF80) = 0x80#8 ∧
    (∀ o ∈ [0x00#8, 0x04#8, 0x10#8, 0x16#8, 0x80#8, 0xFF#8],
      o ∉ [0x01#8, 0x02#8, 0x03#8, 0x11#8, 0x12#8, 0x13#8, 0x14#8, 0x15#8]) :=
  ⟨rfl, by decide, by decide, by decide⟩
theorem witness_DisabledTurnIsNoStep :
    held.hostBusy = true ∧ State.reset.hostBusy = false ∧
    (bothUp.encPhase = .idle ∧ ¬ (bothUp.encCfg = true ∧ bothUp.edgePending = true)) ∧
    (State.reset.encPhase = .idle ∧
      ¬ (State.reset.encCfg = true ∧ State.reset.edgePending = true)) := by decide
theorem witness_ConfigurationIsFixed :
    nextOf (step { State.reset with schedule := [.issue 0x0000000001 okDraw] }) =
      some { kpUp with draw := okDraw, responses := [⟨.ok, 0⟩] } := by decide
theorem witness_EveryStepKeepsTheInvariant :
    Inv held ∧ ∃ u, step { held with schedule := [.edge okDraw] } = .next u :=
  ⟨inv_held, _, rfl⟩
theorem witness_ResetEventSetsEveryRegister : ∃ u, takeTurn .reset held = .next u := ⟨_, rfl⟩

theorem witness_ClaimAllIsAllOrNothing :
    claimAll Config.default [] (encPinList Config.default.pins) = .ok encUp.claimed ∧
    (0 : PinId) ∉ (encPinList Config.default.pins).map (fun e => e.1) := by decide
theorem witness_ReleaseRemovesTheListedPins :
    (8 : PinId) ∈ (encPinList Config.default.pins).map (fun e => e.1) ∧
    (7 : PinId) ∉ (encPinList Config.default.pins).map (fun e => e.1) := by decide
theorem witness_OnlyActivatingWritesFail :
    (true = (failing kpUp).cfg.rowActive ∧ (failing kpUp).cfg.ioFaults = true ∧
      (failing kpUp).draw.ok = false) ∧ false ≠ (failing kpUp).cfg.rowActive := by decide
theorem witness_ReadsAnswerTheLiveLevel :
    encUp.cfg.ioFaults = false ∧
    ((failing encUp).cfg.ioFaults = true ∧ (failing encUp).draw.ok = false) := by decide
/-- A scan in progress at its last sample; and a state in which no input line is claimed. -/
theorem witness_CoreTouchesOnlyClaimedPins :
    (Inv (scanning { bothUp with encPhase := .gotB } 3 3 .sample) ∧
      (scanning { bothUp with encPhase := .gotB } 3 3 .sample).seq = .run 3 3 .sample) ∧
    (Inv bothUp ∧ bothUp.rowDrive.get 0 ≠ .z) ∧
    (Inv unclaimed ∧ (∃ u, exec .encGetbtn unclaimed = .next u) ∧
      claimMode unclaimed.claimed (unclaimed.cfg.pins.col.get 0) ≠ some .inp ∧
      claimMode unclaimed.claimed unclaimed.cfg.pins.a ≠ some .inEdgePu ∧
      claimMode unclaimed.claimed unclaimed.cfg.pins.b ≠ some .inEdgePu ∧
      claimMode unclaimed.claimed unclaimed.cfg.pins.btn ≠ some .inPlain) :=
  ⟨⟨inv_scanning 3 3 .sample .gotB, rfl⟩, ⟨inv_bothUp, by decide⟩,
   inv_unclaimed, ⟨_, rfl⟩, by decide, by decide, by decide, by decide⟩

/-- One key: its row reaches its column and no other row. -/
theorem reach_one_key {v : Vertex} (h : connected (withKey kpUp 2 1).env.pressed (.row 2) v) :
    v = .row 2 ∨ v = .col 1 := by
  induction h with
  | refl => exact .inl rfl
  | tail _ he ih =>
    rename_i x y _
    have edges : ∀ i j : Fin 4, keyDown (withKey kpUp 2 1).env.pressed i j = true →
        i = 2 ∧ j = 1 := by decide
    rcases ih with rfl | rfl
    · cases y with
      | row i => exact absurd he (by simp [keyEdge])
      | col j => exact .inr (by rw [(edges 2 j he).2])
    · cases y with
      | row i => exact .inl (by rw [(edges i 1 he).1])
      | col j => exact absurd he (by simp [keyEdge])

/-- No row active; one row active with a column not reached, with its own column, and with a
column it shares with another row. -/
theorem witness_ColumnLevelFollowsTheGraph :
    (∀ i, kpUp.rowDrive.get i ≠ .level Config.default.rowActive) ∧
    (∀ i, (kpUp.rowDrive.set 2 (.level true)).get i = .level Config.default.rowActive ↔ i = 2) ∧
    ¬ connected (withKey kpUp 2 1).env.pressed (.row 2) (.col 0) ∧
    (connected (withKey kpUp 2 1).env.pressed (.row 2) (.col 1) ∧
      ∀ i, connected (withKey kpUp 2 1).env.pressed (.row 2) (.row i) → i = 2) ∧
    (connected (withKey (withKey kpUp 2 1) 0 1).env.pressed (.row 2) (.col 1) ∧
      ∃ i, i ≠ 2 ∧ connected (withKey (withKey kpUp 2 1) 0 1).env.pressed (.row 2) (.row i)) := by
  have step1 : ∀ p : KeySet, keyDown p 2 1 = true → connected p (.row 2) (.col 1) :=
    fun p h => Relation.ReflTransGen.single h
  refine ⟨by decide, by decide, ?_, ⟨step1 _ (by decide), ?_⟩, step1 _ (by decide), 0, by decide,
    (step1 _ (by decide)).tail (show keyDown _ 0 1 = true by decide)⟩
  · intro h
    rcases reach_one_key h with h | h
    · cases h
    · exact absurd h (by decide)
  · intro i h
    rcases reach_one_key h with h | h
    · cases h; rfl
    · cases h

theorem witness_KpInitClaimsAndConfigures :
    claimMustFail kpUp.cfg kpUp.claimed (kpPinList kpUp.cfg.pins) ∧
    ¬ claimMustFail encUp.cfg encUp.claimed (kpPinList encUp.cfg.pins) := by
  unfold claimMustFail; decide
theorem witness_ScanIssueStep :
    (kpUp.seq = .idle ∧ kpUp.kpCfg = true) ∧
    (State.reset.seq = .idle ∧ State.reset.kpCfg = false) := by decide
theorem witness_ScanMicroSteps :
    kpUp.cfg.ioFaults = false ∧ (scanning kpUp 0 0 .act).seq = .run 0 0 .act ∧
    (scanning kpUp 3 3 .sample).seq = .run 3 3 .sample ∧
    ((scanning (failing kpUp) 2 3 .deact).seq = .run 2 3 .deact ∧ (2 : Fin 4) ≠ 3) ∧
    (scanning (failing kpUp) 3 3 .deact).seq = .run 3 3 .deact := by decide
theorem witness_FailedAccessAbortsTheScan :
    (failing bothUp).cfg.ioFaults = true ∧ (failing bothUp).draw.ok = false ∧
    (scanning (failing bothUp) 3 3 .sample).seq = .run 3 3 .sample ∧
    (scanning (failing bothUp) 3 0 .act).seq = .run 3 0 .act ∧
    (Inv (scanning (failing bothUp) 3 0 .act) ∧
      ∃ u, exec .kpScan (scanning (failing bothUp) 3 0 .act) = .next u ∧ u.seq = .idle) :=
  ⟨rfl, rfl, rfl, rfl, inv_scanning_failing 3 0 .act, _, rfl, rfl⟩
theorem witness_KpShutdownReleases : kpUp.kpCfg = true ∧ State.reset.kpCfg = false := by decide
theorem witness_AtMostOneRowActive :
    (Inv bothUp ∧ bothUp.seq = .idle) ∧
    (Inv (scanning bothUp 0 0 .act) ∧ (scanning bothUp 0 0 .act).seq = .run 0 0 .act) ∧
    (Inv (scanning bothUp 3 3 .sample) ∧
      (scanning bothUp 3 3 .sample).rowDrive.get 3 = .level true) :=
  ⟨⟨inv_bothUp, rfl⟩, ⟨inv_scanning 0 0 .act .idle, rfl⟩, inv_scanning 3 3 .sample .idle, rfl⟩

/-- Turns that let a scan go on, others in between. -/
def scanTurns (n : Nat) : List Turn := .edge okDraw :: List.replicate n (.cont okDraw)

theorem witness_ScanTakesTwentyFourMicroSteps :
    Inv (scanning bothUp 0 0 .act) ∧ (scanning bothUp 0 0 .act).seq = .run 0 0 .act ∧
    (∀ t ∈ scanTurns 24, isIssue t = false ∧ t ≠ .reset ∧
      accessSucceeds (scanning bothUp 0 0 .act).cfg t = true) ∧
    (scanTurns 24).countP isCont = 24 ∧ (scanTurns 23).countP isCont < 24 :=
  ⟨inv_scanning 0 0 .act .idle, by decide⟩
theorem inv_bothUp_key : Inv (withKey bothUp 2 1) :=
  inv_bothUp.congr inv_bothUp.position inv_bothUp.data rfl rfl rfl rfl rfl rfl rfl rfl (by decide) (by decide)
theorem noSharedColumn_one_key : noSharedColumn (withKey bothUp 2 1).env.pressed := by
  unfold noSharedColumn; decide
theorem witness_ScanReportsThePressedKeys :
    Inv (withKey bothUp 2 1) ∧ (withKey bothUp 2 1).hostBusy = false ∧
    (withKey bothUp 2 1).kpCfg = true ∧ noSharedColumn (withKey bothUp 2 1).env.pressed ∧
    (∀ t ∈ scanTurns 24, keepsKeys (withKey bothUp 2 1).env.pressed t = true ∧
      accessSucceeds (withKey bothUp 2 1).cfg t = true) ∧
    (scanTurns 24).countP isCont = 24 :=
  ⟨inv_bothUp_key, rfl, rfl, noSharedColumn_one_key, by decide, by decide⟩

/-- A scan that has sampled every key and found the one that is down. -/
def lastStep : State :=
  { scanning { bothUp with encPhase := .idle } 3 3 .deact with
    env := (withKey bothUp 2 1).env, keysAcc := 0x0200#16 }

theorem witness_ScanStaysFaithful :
    Inv lastStep ∧ noSharedColumn (withKey bothUp 2 1).env.pressed ∧
    scanFaithful (withKey bothUp 2 1).env.pressed lastStep ∧
    keepsKeys (withKey bothUp 2 1).env.pressed (.cont okDraw) = true ∧
    accessSucceeds lastStep.cfg (.cont okDraw) = true ∧
    ∃ u, takeTurn (.cont okDraw) lastStep = .next u :=
  ⟨(inv_scanning 3 3 .deact .idle).congr inv_bothUp.position inv_bothUp.data rfl rfl rfl rfl rfl rfl rfl rfl (by decide) (by decide),
   noSharedColumn_one_key, by unfold scanFaithful; decide, rfl, rfl, _, rfl⟩
/-- Two states with different keys down and one reading alike at the column sampled. -/
theorem witness_ScanDependsOnlyOnItsSamples :
    (scanning kpUp 1 1 .sample).seq = (scanning (withKey bothUp 1 2) 1 1 .sample).seq ∧
    (scanning kpUp 1 1 .sample).seq ≠ .idle ∧
    (scanning kpUp 1 1 .sample).keysAcc = (scanning (withKey bothUp 1 2) 1 1 .sample).keysAcc ∧
    (scanning kpUp 1 1 .sample).cfg = (scanning (withKey bothUp 1 2) 1 1 .sample).cfg ∧
    gpioRead (scanning kpUp 1 1 .sample) (.col 1) =
      gpioRead (scanning (withKey bothUp 1 2) 1 1 .sample) (.col 1) ∧
    accessOk (scanning kpUp 1 0 .act) = accessOk (scanning (withKey bothUp 1 2) 1 0 .act) ∧
    (∃ u, exec .kpScan (scanning kpUp 1 1 .sample) = .next u) ∧
    (∃ u, exec .kpScan (scanning (withKey bothUp 1 2) 1 1 .sample) = .next u) :=
  ⟨rfl, by decide, rfl, rfl, by decide, rfl, ⟨_, rfl⟩, ⟨_, rfl⟩⟩
theorem witness_LabelsNameEverySetOnce :
    ∀ l, l ∈ labels KeyMap.default 0x0001#16 ↔ l ∈ labels KeyMap.default 0x0001#16 :=
  fun _ => Iff.rfl

theorem witness_TransitionTableEntries :
    0#4 ∈ [0#4, 5#4, 10#4, 15#4] ∧ 13#4 ∈ [2#4, 4#4, 11#4, 13#4] ∧
    1#4 ∈ [1#4, 7#4, 8#4, 14#4] ∧ 12#4 ∈ [3#4, 6#4, 9#4, 12#4] := by decide
theorem witness_StoredTableIsTheTable :
    Delta.minusOne ≠ .amb ∧ romCode 12#4 = 0b10#2 ∧ romCode 3#4 = 0b10#2 := by decide
theorem witness_DeltaAddsAndWraps :
    2 ≤ 32 ∧
    (operandInRange 32 2147483647 = true ∧ (2147483647 : Int) = 2 ^ 31 - 1) ∧
    (operandInRange 32 2147483646 = true ∧ (2147483646 : Int) ≠ 2 ^ 31 - 1) ∧
    (operandInRange 32 (-2147483648) = true ∧ (-2147483648 : Int) = -2 ^ 31) ∧
    (operandInRange 32 (-2147483647) = true ∧ (-2147483647 : Int) ≠ -2 ^ 31) ∧
    ((latched encUp true true).encPhase = .gotB ∧
      ∃ u, exec .encEdge (latched encUp true true) = .next u) :=
  ⟨by decide, by decide, by decide, by decide, by decide, rfl, _, rfl⟩
theorem witness_CommandsHoldDuringAHandlerRun :
    held.encPhase ≠ .idle ∧ operandInRange held.cfg.width 2147483647 = true ∧
    ∃ u, exec .encGetbtn held = .next u := ⟨by decide, by decide, _, rfl⟩
theorem witness_EncInitClaimsAndClears :
    held.encPhase ≠ .idle ∧ bothUp.encPhase = .idle ∧ kpUp.encPhase = .idle ∧
    claimMustFail bothUp.cfg bothUp.claimed (encPinList bothUp.cfg.pins) ∧
    ¬ claimMustFail kpUp.cfg kpUp.claimed (encPinList kpUp.cfg.pins) := by
  refine ⟨by decide, rfl, rfl, ?_⟩
  unfold claimMustFail; decide
theorem witness_GetposAnswersThePosition :
    held.encPhase ≠ .idle ∧ State.reset.encPhase = .idle := by decide
theorem witness_SetposOverwritesThePosition :
    operandInRange held.cfg.width (-2147483648) = true ∧
    operandInRange State.reset.cfg.width 2147483647 = true ∧ held.encPhase ≠ .idle ∧ State.reset.encPhase = .idle := by decide
theorem witness_GetbtnAnswersTheLiveLevel :
    (encUp.encCfg = true ∧ encUp.cfg.ioFaults = false) ∧
    ((failing encUp).encCfg = true ∧ (failing encUp).cfg.ioFaults = true ∧
      (failing encUp).draw.ok = false) ∧ State.reset.encCfg = false := by decide
theorem witness_EncShutdownReleases :
    held.encPhase ≠ .idle ∧ (encUp.encPhase = .idle ∧ encUp.encCfg = true) ∧
    (State.reset.encPhase = .idle ∧ State.reset.encCfg = false) := by decide
theorem witness_EdgeHandlerMicroSteps :
    ((edged encUp true false).encPhase = .idle ∧ (edged encUp true false).encCfg = true ∧
      (edged encUp true false).edgePending = true ∧ encUp.cfg.ioFaults = false) ∧
    held.encPhase = .gotA ∧ (latched encUp true false).encPhase = .gotB := by decide
theorem witness_HandlerReadFailureSetsTheRecord :
    ((failing encUp).cfg.ioFaults = true ∧ (failing encUp).draw.ok = false ∧
      (edged (failing encUp) true false).encPhase = .idle ∧
      (edged (failing encUp) true false).encCfg = true ∧
      (edged (failing encUp) true false).edgePending = true) ∧
    (failing held).encPhase = .gotA ∧
    ({ encUp with encFault := true }.encFault = true ∧ Turn.edge okDraw ≠ .reset ∧
      ∃ u, takeTurn (.edge okDraw) { encUp with encFault := true } = .next u) :=
  ⟨by decide, rfl, rfl, by decide, _, rfl⟩
theorem witness_EdgeSetsPending :
    (true ≠ encUp.env.lvlA ∧ encUp.encCfg = true) ∧ State.reset.encCfg = false ∧
    (Env.atReset.lvlA = encUp.env.lvlA ∧ Env.atReset.lvlB = encUp.env.lvlB) := by decide
theorem witness_EdgesCoalesceIntoOneRun : (edged encUp true true).encPhase = .idle := by decide
theorem witness_HandlerRunEndsInThreeMicroSteps :
    Inv held ∧ held.encPhase ≠ .idle ∧ 2 ≤ [Turn.edge okDraw, .cont okDraw, .edge okDraw].countP isEdge :=
  ⟨inv_held, by decide, by decide⟩
theorem witness_PositionAccumulatesTheCommits :
    operandInRange (edged encUp true false).cfg.width (edged encUp true false).position = true ∧
    ∀ k, k < 3 → mayRewritePosition ((fun _ => Turn.edge okDraw) k)
      (stateAt (fun _ => .edge okDraw) (edged encUp true false) k) = false :=
  ⟨by decide, fun _ _ => rfl⟩
theorem witness_FullGrayCycleAddsFour :
    encUp.encCfg = true ∧ encUp.encPhase = .idle ∧ encUp.prevA = false ∧ encUp.prevB = false ∧
    encUp.env.lvlA = false ∧ encUp.env.lvlB = false ∧ encUp.cfg.ioFaults = false := by decide

theorem witness_OnlyTheHandlerAndInitWritePrev :
    ∃ u, takeTurn (.edge okDraw) (latched encUp true false) = .next u ∧
      u.prevA ≠ (latched encUp true false).prevA := ⟨_, rfl, by decide⟩
theorem witness_OnlyFourThingsWriteThePosition :
    ∃ u, takeTurn (.issue 0x0000000513 okDraw) encUp = .next u ∧ u.position ≠ encUp.position ∧
      operandInRange encUp.cfg.width 5 = true :=
  ⟨_, rfl, by decide⟩
theorem inv_failing_owed : Inv (edged (failing bothUp) true false) where
  position := inv_bothUp.position
  data := inv_bothUp.data
  claims := inv_bothUp.claims
  busy := rfl
  unanswered := by intro i h; cases h
  operand := by intro i h; cases h
  scan := inv_bothUp.scan
  scanCfg := inv_bothUp.scanCfg
  rows := by decide
  handler := fun _ => rfl
  pending := fun _ => rfl
  kpClaims := inv_bothUp.kpClaims
  encClaims := inv_bothUp.encClaims
  ownClaims := inv_bothUp.ownClaims
theorem witness_FaultRecordIsSticky :
    Inv (edged (failing bothUp) true false) ∧
    edgeEnabled (edged (failing bothUp) true false) ∧
    (edged (failing bothUp) true false).cfg.ioFaults = true ∧
    (edged (failing bothUp) true false).encPhase ≠ .gotB ∧
    (edged (failing bothUp) true false).encFault = false ∧
    ∃ u, takeTurn (.edge badDraw) (edged (failing bothUp) true false) = .next u ∧
      u.encFault = true :=
  ⟨inv_failing_owed, .inl (by decide), rfl, by decide, rfl, _, rfl, by decide⟩
theorem witness_OneResponsePerCommand :
    Inv held ∧ (∃ u, takeTurn (.cont okDraw) held = .next u ∧ u.responses = held.responses) ∧
    held.hostBusy = true ∧
    Inv bothUp ∧ bothUp.hostBusy = false ∧ (∃ u, takeTurn (.edge okDraw) bothUp = .next u) ∧
    (∃ u, takeTurn (.issue 0x0000000002 okDraw) bothUp = .next u ∧
      u.responses = bothUp.responses) :=
  ⟨inv_held, ⟨_, rfl, rfl⟩, rfl, inv_bothUp, rfl, ⟨_, rfl⟩, _, rfl, rfl⟩
theorem witness_ErrorsLeaveTheRegisters :
    Inv (scanning (failing bothUp) 3 3 .sample) ∧
    (∃ u, takeTurn (.cont badDraw) (scanning (failing bothUp) 3 3 .sample) = .next u ∧
      u.responses = (scanning (failing bothUp) 3 3 .sample).responses ++ [⟨.hwReadError, 0⟩]) ∧
    Inv bothUp ∧ bothUp.seq = .idle ∧
    (∃ u, takeTurn (.issue 0x0000000001 okDraw) bothUp = .next u ∧
      u.responses = bothUp.responses ++ [⟨.hwInitError, 0⟩]) :=
  ⟨inv_scanning_failing 3 3 .sample, ⟨_, rfl, by decide⟩, inv_bothUp, rfl, _, rfl, by decide⟩
theorem witness_UnitsAreIndependent :
    (∃ u, exec .kpScan (scanning bothUp 1 1 .sample) = .next u) ∧
    (∃ u, exec .encEdge held = .next u) := ⟨⟨_, rfl⟩, ⟨_, rfl⟩⟩
theorem witness_ScanAndHandlerStepsCommute :
    (scanning bothUp 1 1 .sample).hostBusy = true ∧
    (scanning bothUp 1 1 .sample).cmd = some .kpScan ∧
    (scanning bothUp 1 1 .sample).seq ≠ .idle := by decide

/-- The command and EDGE by turns. -/
def byTurns (n : Nat) : Turn := if n % 2 = 0 then .cont okDraw else .edge okDraw

/-- Both units configured, ENC.GETPOS accepted and free to step. -/
def waiting : State := { held with encPhase := .idle }

theorem inv_waiting : Inv waiting :=
  inv_held.congr inv_held.position inv_held.data rfl rfl rfl rfl rfl rfl rfl rfl (by decide) (by decide)

/-- After the first turn the command is answered. -/
theorem idle_after_first (n : Nat) :
    (stateAt byTurns waiting (n + 1)).hostBusy = false ∧
    (stateAt byTurns waiting (n + 1)).cmd = none := by
  induction n with
  | zero => decide
  | succ n ih =>
    show (afterTurn (stateAt byTurns waiting (n + 1)) (byTurns (n + 1))).hostBusy = false ∧
      (afterTurn (stateAt byTurns waiting (n + 1)) (byTurns (n + 1))).cmd = none
    generalize stateAt byTurns waiting (n + 1) = v at ih ⊢
    unfold byTurns
    split
    · rw [afterTurn_of_next (u := v.withDraw okDraw) (by simp [takeTurn, continueCommand, ih.1])]
      exact ih
    · obtain ⟨u, hu⟩ : ∃ u, execEncEdge (v.withDraw okDraw) = .next u := by
        unfold execEncEdge
        split
        · split <;> exact ⟨_, rfl⟩
        · exact ⟨_, rfl⟩
        · exact ⟨_, rfl⟩
      rw [afterTurn_of_next (t := .edge okDraw) (s := v) hu, (execEncEdge_frame hu).2.2.1,
        (execEncEdge_frame hu).2.1]
      exact ih

theorem fair_byTurns : Fair byTurns waiting where
  edge n := ⟨2 * n + 1, by omega, .inr (.inl (by simp [byTurns, isEdge]))⟩
  command n := ⟨2 * n, by omega, .inr (by simp [byTurns, isCont])⟩
  held n i hc hl _ := by
    cases n with
    | zero => exact ⟨0, le_rfl, .inr ⟨rfl, hc, rfl⟩⟩
    | succ n =>
      rw [(idle_after_first n).2] at hc
      cases hc

theorem witness_FairRunsAnswerEveryCommand :
    Inv waiting ∧ Fair byTurns waiting ∧ (stateAt byTurns waiting 0).hostBusy = true :=
  ⟨inv_waiting, fair_byTurns, rfl⟩

end Sys2Proof.Tests
end

section
/-! PROOFS. Every meaning, every turn and every step answers a next state. -/

namespace Sys2Proof.Machine

/-! ### Each meaning answers -/

theorem execKpInit_answers (s : State) : ∃ u, execKpInit s = .next u := by
  unfold execKpInit
  split <;> exact ⟨_, rfl⟩

theorem execKpScan_answers (s : State) : ∃ u, execKpScan s = .next u := by
  unfold execKpScan
  split <;> exact ⟨_, rfl⟩

theorem execKpShutdown_answers (s : State) : ∃ u, execKpShutdown s = .next u := by
  unfold execKpShutdown
  split <;> exact ⟨_, rfl⟩

/-- A hold answers a next state, so a command that takes the lock answers when its effect does.
41_encoder.md R144. -/
theorem withLock_answers {s : State} (i : Instr) {f : State → Host.Outcome State Fault Refusal}
    (hf : ∃ u, f s = .next u) : ∃ u, withLock i s f = .next u := by
  by_cases h : s.encPhase = .idle
  · rw [withLock_of_idle h]
    exact hf
  · exact ⟨_, withLock_of_run h i f⟩

theorem encInitEffect_answers (s : State) : ∃ u, encInitEffect s = .next u := by
  unfold encInitEffect
  split <;> exact ⟨_, rfl⟩

theorem execEncGetbtn_answers (s : State) : ∃ u, execEncGetbtn s = .next u := by
  unfold execEncGetbtn
  split
  · split <;> exact ⟨_, rfl⟩
  · exact ⟨_, rfl⟩

theorem encShutdownEffect_answers (s : State) : ∃ u, encShutdownEffect s = .next u := by
  unfold encShutdownEffect
  split <;> exact ⟨_, rfl⟩

/-- A failed read of the handler is a record in the next state. 41_encoder.md R139. -/
theorem execEncEdge_answers (s : State) : ∃ u, execEncEdge s = .next u := by
  unfold execEncEdge
  split
  · split <;> exact ⟨_, rfl⟩
  · exact ⟨_, rfl⟩
  · exact ⟨_, rfl⟩

theorem exec_answers (i : Instr) (s : State) : ∃ u, exec i s = .next u := by
  cases i with
  | kpInit => exact execKpInit_answers s
  | kpScan => exact execKpScan_answers s
  | kpShutdown => exact execKpShutdown_answers s
  | encInit => exact withLock_answers .encInit (encInitEffect_answers s)
  | encGetpos => exact withLock_answers .encGetpos ⟨_, rfl⟩
  | encSetpos value => exact withLock_answers (.encSetpos value) ⟨_, rfl⟩
  | encGetbtn => exact execEncGetbtn_answers s
  | encShutdown => exact withLock_answers .encShutdown (encShutdownEffect_answers s)
  | encEdge => exact execEncEdge_answers s

/-! ### Each turn answers -/

/-- An illegal word is answered too. 30_encoding.md R77. -/
theorem issueCommand_answers (w : Nat) (s : State) : ∃ u, issueCommand w s = .next u := by
  unfold issueCommand
  split
  · exact ⟨_, rfl⟩
  · split
    · exact ⟨_, rfl⟩
    · exact exec_answers _ s

theorem continueCommand_answers (s : State) : ∃ u, continueCommand s = .next u := by
  unfold continueCommand
  split
  · split
    · exact exec_answers _ s
    · exact ⟨_, rfl⟩
  · exact ⟨_, rfl⟩

theorem takeTurn_answers (t : Turn) (s : State) : ∃ u, takeTurn t s = .next u := by
  cases t with
  | issue w d => exact issueCommand_answers w (s.withDraw d)
  | cont d => exact continueCommand_answers (s.withDraw d)
  | edge d => exact exec_answers .encEdge (s.withDraw d)
  | env e => exact ⟨_, rfl⟩
  | reset => exact ⟨_, rfl⟩

/-- Settles O12: a step is a turn, and a turn answers because each meaning does. -/
theorem everyStepAnswersANextState : Obligations.EveryStepAnswersANextState :=
  ⟨fun s => step_eq_takeTurn s ▸ takeTurn_answers (nextTurn s) s.advance, exec_answers⟩

end Sys2Proof.Machine
end

section
/-! PROOFS. What a claim that succeeds, and a release, leave in the claim map. -/

namespace Sys2Proof.Machine

/-! ### Claims, 20_memory.md R54 -/

theorem checkClaim_eq_none {c : Config} {m : Claims} {seen : List PinId} {p : PinId}
    {mode : PinMode} (h : checkClaim c m seen p mode = none) :
    claimMode m p = none ∧ p ∉ seen := by
  unfold checkClaim at h
  split at h
  · cases h
  · split at h
    · cases h
    · next hfree =>
      simpa [-not_and, not_or] using hfree

theorem firstClaimFailure_eq_none {c : Config} {m : Claims} {l : List (PinId × PinMode)} :
    ∀ {seen : List PinId}, firstClaimFailure c m seen l = none →
      (∀ e ∈ l, claimMode m e.1 = none ∧ e.1 ∉ seen) ∧ (l.map Prod.fst).Nodup := by
  induction l with
  | nil => intro _ _; simp
  | cons e rest ih =>
    intro seen h
    simp only [firstClaimFailure] at h
    split at h
    · cases h
    · next hcheck =>
      obtain ⟨hrest, hnodup⟩ := ih h
      refine ⟨fun f hf => ?_, List.nodup_cons.2 ⟨fun hmem => ?_, hnodup⟩⟩
      · rcases List.mem_cons.1 hf with rfl | hf
        · exact checkClaim_eq_none hcheck
        · exact ⟨(hrest f hf).1, fun hs => (hrest f hf).2 (List.mem_cons_of_mem _ hs)⟩
      · obtain ⟨f, hf, hfe⟩ := List.mem_map.1 hmem
        exact (hrest f hf).2 (hfe ▸ List.mem_cons_self)

theorem claimMode_foldl_insertClaim_of_notMem {l : List (PinId × PinMode)} {p : PinId} :
    ∀ {m : Claims}, p ∉ l.map Prod.fst →
      claimMode (l.foldl (fun m e => insertClaim e.1 e.2 m) m) p = claimMode m p := by
  induction l with
  | nil => intro _ _; rfl
  | cons e rest ih =>
    intro m hp
    obtain ⟨hpe, hrest⟩ := not_or.1 (List.mem_cons.not.1 hp)
    exact (ih hrest).trans (claimMode_insertClaim_ne e.2 m hpe)

theorem claimMode_foldl_insertClaim_of_mem {l : List (PinId × PinMode)} {e : PinId × PinMode} :
    ∀ {m : Claims}, (l.map Prod.fst).Nodup → e ∈ l →
      claimMode (l.foldl (fun m e => insertClaim e.1 e.2 m) m) e.1 = some e.2 := by
  induction l with
  | nil => intro _ _ he; cases he
  | cons f rest ih =>
    intro m hnodup he
    obtain ⟨hf, hrest⟩ := List.nodup_cons.1 hnodup
    rcases List.mem_cons.1 he with rfl | he
    · exact (claimMode_foldl_insertClaim_of_notMem hf).trans (claimMode_insertClaim_self _ _ m)
    · exact ih hrest he

section
variable {c : Config} {m m' : Claims} {l l' : List (PinId × PinMode)} {p : PinId} {mode : PinMode}

theorem claimAll_eq_ok (h : claimAll c m l = .ok m') :
    firstClaimFailure c m [] l = none ∧
      m' = l.foldl (fun m e => insertClaim e.1 e.2 m) m := by
  unfold claimAll at h
  split at h
  · cases h
  · cases h; exact ⟨‹_›, rfl⟩

/-- `ClaimAll` succeeds on pins that nothing had claimed. -/
theorem claimAll_wasFree (h : claimAll c m l = .ok m') : ∀ e ∈ l, claimMode m e.1 = none :=
  fun e he => ((firstClaimFailure_eq_none (claimAll_eq_ok h).1).1 e he).1

theorem claimAll_claims (h : claimAll c m l = .ok m') : ∀ e ∈ l, claimMode m' e.1 = some e.2 := by
  obtain ⟨hfree, rfl⟩ := claimAll_eq_ok h
  exact fun e he => claimMode_foldl_insertClaim_of_mem (firstClaimFailure_eq_none hfree).2 he

theorem claimAll_of_notMem (h : claimAll c m l = .ok m') (hp : p ∉ l.map Prod.fst) :
    claimMode m' p = claimMode m p := by
  obtain ⟨-, rfl⟩ := claimAll_eq_ok h
  exact claimMode_foldl_insertClaim_of_notMem hp

/-- `ClaimAll` keeps what was claimed. -/
theorem claimAll_keeps (h : claimAll c m l = .ok m') (hp : claimMode m p = some mode) :
    claimMode m' p = some mode := by
  rw [claimAll_of_notMem h, hp]
  intro hmem
  obtain ⟨e, he, rfl⟩ := List.mem_map.1 hmem
  rw [claimAll_wasFree h e he] at hp
  cases hp

/-- `ClaimAll` claims nothing but its list. -/
theorem claimAll_source (h : claimAll c m l = .ok m') (hp : claimMode m' p = some mode) :
    (p, mode) ∈ l ∨ claimMode m p = some mode := by
  by_cases hmem : p ∈ l.map Prod.fst
  · obtain ⟨e, he, rfl⟩ := List.mem_map.1 hmem
    rw [claimAll_claims h e he] at hp
    cases hp
    exact .inl he
  · exact .inr (claimAll_of_notMem h hmem ▸ hp)

/-! ### Release, 20_memory.md R54 -/

theorem claimMode_releaseAll (m : Claims) (l : List (PinId × PinMode)) (p : PinId) :
    claimMode (releaseAll m l) p = if p ∈ l.map Prod.fst then none else claimMode m p := by
  induction l generalizing m with
  | nil => rfl
  | cons e rest ih =>
    have hstep : claimMode (releaseAll m (e :: rest)) p =
      if p ∈ rest.map Prod.fst then none else claimMode (eraseClaim e.1 m) p := ih _
    rw [hstep, claimMode_eraseClaim]
    simp only [List.map_cons, List.mem_cons]
    split_ifs <;> tauto

/-- A release keeps the claims of the pins it does not list. -/
theorem releaseAll_keeps (hp : p ∉ l.map Prod.fst) (h : claimMode m p = some mode) :
    claimMode (releaseAll m l) p = some mode := by
  rw [claimMode_releaseAll, if_neg hp, h]

/-- A claim that outlives a release is an old one, of a pin that is not listed. -/
theorem releaseAll_source (h : claimMode (releaseAll m l) p = some mode) :
    p ∉ l.map Prod.fst ∧ claimMode m p = some mode := by
  rw [claimMode_releaseAll] at h
  split at h
  · cases h
  · exact ⟨‹_›, h⟩

end

end Sys2Proof.Machine
end

section
/-! PROOFS. The invariant: it holds after reset, each meaning keeps it, so every turn and every step
does; and what it says of the rows. -/

namespace Sys2Proof.Machine

variable {s u : State}

/-! ### The host port -/

/-- While the host port is free no command waits and no scan is in progress. -/
theorem Inv.of_free (hi : Inv s) (h : s.hostBusy = false) : s.cmd = none ∧ s.seq = .idle := by
  have hcmd : s.cmd = none := by simpa [h] using hi.busy
  refine ⟨hcmd, by_contra fun hseq => ?_⟩
  rw [hi.scan.2 hseq] at hcmd
  cases hcmd

/-- With no scan in progress, an answer keeps the invariant. -/
theorem Inv.respond (hi : Inv s) (hseq : s.seq = .idle) (st : Status) {x : Nat}
    (hx : x < 2 ^ dataWidth s.cfg.width) : Inv (s.respond st x) :=
  { hi with
    data := fun r hr => by
      rcases List.mem_append.1 hr with hr | hr
      · exact hi.data r hr
      · rw [List.mem_singleton.1 hr]; exact hx
    busy := rfl
    unanswered := nofun
    operand := nofun
    scan := ⟨nofun, fun h => absurd hseq h⟩ }

theorem Inv.raise (hi : Inv s) (hseq : s.seq = .idle) (st : Status) : Inv (s.raise st) :=
  hi.respond hseq st (Nat.two_pow_pos _)

/-- With no scan in progress, a hold keeps the invariant. 41_encoder.md R144. -/
theorem Inv.accept (hi : Inv s) (hseq : s.seq = .idle) {i : Instr} (hlock : i.takesLock = true)
    (hwf : i.wellFormed s.cfg.width = true) : Inv (s.accept i) :=
  { hi with
    busy := rfl
    unanswered := fun j hj => by cases hj; exact .inr hlock
    operand := fun j hj => by cases hj; exact hwf
    scan := by
      refine ⟨fun h => ?_, fun h => absurd hseq h⟩
      cases h
      cases hlock }

/-! ### The scan -/

/-- A configured keypad at rest starts its scan. 40_keypad.md R106. -/
theorem Inv.startScan (hi : Inv s) (hseq : s.seq = .idle) (hkp : s.kpCfg = true) :
    Inv (State.accept { s with keysAcc := 0, seq := .run 0 0 .act } .kpScan) :=
  { hi with
    busy := rfl
    unanswered := fun j hj => by cases hj; exact .inl rfl
    operand := fun j hj => by cases hj; rfl
    scan := ⟨nofun, fun _ => rfl⟩
    scanCfg := fun _ => hkp
    rows := hi.rows.trans (by simp only [expectedRows, hseq]; rfl) }

/-- A scan moves on, with the rows as its new point says. 40_keypad.md R106. -/
theorem Inv.moveScan (hi : Inv s) (hseq : s.seq ≠ .idle) {q : Seq} (hq : q ≠ .idle)
    {d : Quad Drive} (hd : d = expectedRows { s with seq := q }) (k : Keys) :
    Inv { s with rowDrive := d, keysAcc := k, seq := q } :=
  { hi with
    scan := ⟨fun _ => hq, fun _ => hi.scan.2 hseq⟩
    scanCfg := fun _ => hi.scanCfg hseq
    rows := hd }

/-- A scan ends with its answer, the rows at rest. 40_keypad.md R106, R107, R108. -/
theorem Inv.endScan (hi : Inv s) {d : Quad Drive} (hd : d = restRows s) (st : Status) {x : Nat}
    (hx : x < 2 ^ dataWidth s.cfg.width) :
    Inv (State.respond { s with rowDrive := d, seq := .idle } st x) := by
  have hfreed : Inv { s with rowDrive := d, seq := .idle, hostBusy := false, cmd := none } :=
    { hi with
      busy := rfl
      unanswered := nofun
      operand := nofun
      scan := ⟨nofun, fun h => absurd rfl h⟩
      scanCfg := fun h => absurd rfl h
      rows := hd }
  exact hfreed.respond rfl st hx

theorem Inv.rows_act (hi : Inv s) {r c : Fin 4} (hseq : s.seq = .run r c .act) :
    s.rowDrive = restRows s := by
  rw [hi.rows, expectedRows, hseq]

/-- From its ACT to its DEACT row r alone is active. -/
theorem Inv.rows_active (hi : Inv s) {r c : Fin 4}
    (hseq : s.seq = .run r c .sample ∨ s.seq = .run r c .deact) :
    s.rowDrive = (restRows s).set r (.level s.cfg.rowActive) := by
  rcases hseq with hseq | hseq <;> rw [hi.rows, expectedRows, hseq]

/-- Deactivating the active row brings the rows of a configured keypad to rest. -/
theorem Inv.rows_deactivated (hi : Inv s) {r c : Fin 4}
    (hseq : s.seq = .run r c .sample ∨ s.seq = .run r c .deact) :
    s.rowDrive.set r (.level (!s.cfg.rowActive)) = restRows s := by
  have hkp : s.kpCfg = true := hi.scanCfg (by rcases hseq with h | h <;> simp [h])
  simp [hi.rows_active hseq, restRows, hkp]

theorem afterSample_ne_idle (r c : Fin 4) : afterSample r c ≠ .idle := by
  unfold afterSample; split <;> nofun

/-- A row stays active between its samples and after the last one. -/
theorem expectedRows_afterSample (s : State) (r c : Fin 4) :
    expectedRows { s with seq := afterSample r c } =
      (restRows s).set r (.level s.cfg.rowActive) := by
  unfold afterSample; split <;> rfl

theorem keysData_lt (k : Keys) (n : Nat) : keysData k < 2 ^ dataWidth n :=
  k.isLt.trans_le (Nat.pow_le_pow_right two_pos (le_max_left 16 n))

theorem scanIssue_keeps_inv (hi : Inv s) (hseq : s.seq = .idle) : Inv (scanIssue s) := by
  unfold scanIssue
  split
  · exact hi.startScan hseq ‹_›
  · exact hi.raise hseq _

theorem scanActivate_keeps_inv (hi : Inv s) {r c : Fin 4} (hseq : s.seq = .run r c .act) :
    Inv (scanActivate s r) := by
  rcases ha : accessOk s with _ | _
  · rw [scanActivate_of_fail ha]
    exact hi.endScan (hi.rows_act hseq) _ (Nat.two_pow_pos _)
  · rw [scanActivate_of_ok ha]
    exact hi.moveScan (by simp [hseq]) (by nofun) (by rw [hi.rows_act hseq]; rfl) s.keysAcc

theorem scanSample_keeps_inv (hi : Inv s) {r c : Fin 4} (hseq : s.seq = .run r c .sample) :
    Inv (scanSample s r c) := by
  rcases ha : accessOk s with _ | _
  · rw [scanSample_of_fail ha]
    exact hi.endScan (hi.rows_deactivated (.inl hseq)) _ (Nat.two_pow_pos _)
  · rw [scanSample_of_ok ha]
    refine hi.moveScan (by simp [hseq]) (afterSample_ne_idle r c) ?_ _
    rw [expectedRows_afterSample, hi.rows_active (.inl hseq)]

theorem scanDeactivate_keeps_inv (hi : Inv s) {r c : Fin 4} (hseq : s.seq = .run r c .deact) :
    Inv (scanDeactivate s r) := by
  have hrest := hi.rows_deactivated (.inr hseq)
  unfold scanDeactivate
  split
  · exact hi.endScan hrest _ (keysData_lt _ _)
  · exact hi.moveScan (by simp [hseq]) (by nofun) hrest s.keysAcc

theorem execKpScan_keeps_inv (hi : Inv s) (h : execKpScan s = .next u) : Inv u := by
  rcases execKpScan_cases h with ⟨hseq, rfl⟩ | ⟨r, c, hseq, rfl⟩ | ⟨r, c, hseq, rfl⟩ |
    ⟨r, c, hseq, rfl⟩
  · exact scanIssue_keeps_inv hi hseq
  · exact scanActivate_keeps_inv hi hseq
  · exact scanSample_keeps_inv hi hseq
  · exact scanDeactivate_keeps_inv hi hseq

/-! ### Configuring a unit, and shutting it down -/

/-- A keypad pin and an encoder pin are claimed in different modes, so they are different pins. -/
theorem Inv.pins_disjoint (hi : Inv s) (hkp : s.kpCfg = true) (henc : s.encCfg = true)
    {e f : PinId × PinMode} (he : e ∈ kpPinList s.cfg.pins) (hf : f ∈ encPinList s.cfg.pins) :
    e.1 ≠ f.1 := by
  intro hef
  have hmode : e.2 = f.2 := by
    have h := hi.kpClaims hkp e he
    rw [hef, hi.encClaims henc f hf] at h
    exact (Option.some.inj h).symm
  have hout : e.2 = .out ∨ e.2 = .inp := by
    revert e; simp [kpPinList]
  have hin : f.2 = .inEdgePu ∨ f.2 = .inPlain := by
    revert f; simp [encPinList]
  rcases hout with ho | ho <;> rcases hin with hn | hn <;> simp [ho, hn] at hmode

/-- KP.INIT's effect. 40_keypad.md R103. -/
theorem Inv.configureKp (hi : Inv s) (hseq : s.seq = .idle) {m : Claims}
    (hm : claimAll s.cfg s.claimed (kpPinList s.cfg.pins) = .ok m) :
    Inv { s with
      claimed := m, rowDrive := Quad.all4 (.level (!s.cfg.rowActive)), kpCfg := true } :=
  { hi with
    claims := claimAll_canonical hi.claims hm
    scanCfg := fun _ => rfl
    rows := by simp [expectedRows, restRows, hseq]
    kpClaims := fun _ => claimAll_claims hm
    encClaims := fun henc e he => claimAll_keeps hm (hi.encClaims henc e he)
    ownClaims := fun p mode hp => (claimAll_source hm hp).elim (fun h => .inl ⟨rfl, h⟩)
      fun h => (hi.ownClaims p mode h).imp_left fun ⟨_, hmem⟩ => ⟨rfl, hmem⟩ }

/-- KP.SHUTDOWN's effect. 40_keypad.md R113. -/
theorem Inv.shutdownKp (hi : Inv s) (hseq : s.seq = .idle) (hkp : s.kpCfg = true) :
    Inv { s with
      rowDrive := Quad.all4 .z, claimed := releaseAll s.claimed (kpPinList s.cfg.pins)
      kpCfg := false } :=
  { hi with
    claims := releaseAll_canonical _ hi.claims
    scanCfg := fun h => absurd hseq h
    rows := by simp [expectedRows, restRows, hseq]
    kpClaims := nofun
    encClaims := fun henc f hf => by
      refine releaseAll_keeps (fun hmem => ?_) (hi.encClaims henc f hf)
      obtain ⟨e, he, hef⟩ := List.mem_map.1 hmem
      exact hi.pins_disjoint hkp henc he hf hef
    ownClaims := fun p mode hp => by
      obtain ⟨hnot, hold⟩ := releaseAll_source hp
      exact .inr ((hi.ownClaims p mode hold).resolve_left
        fun ⟨_, hmem⟩ => hnot (List.mem_map_of_mem hmem)) }

/-- ENC.INIT's effect. 41_encoder.md R133. -/
theorem Inv.configureEnc (hi : Inv s) {m : Claims}
    (hm : claimAll s.cfg s.claimed (encPinList s.cfg.pins) = .ok m) :
    Inv { s with
      claimed := m, position := 0, prevA := false, prevB := false, edgePending := false
      encCfg := true } :=
  { hi with
    position := operandInRange_zero _
    claims := claimAll_canonical hi.claims hm
    handler := fun _ => rfl
    pending := fun _ => rfl
    kpClaims := fun hkp e he => claimAll_keeps hm (hi.kpClaims hkp e he)
    encClaims := fun _ => claimAll_claims hm
    ownClaims := fun p mode hp => (claimAll_source hm hp).elim (fun h => .inr ⟨rfl, h⟩)
      fun h => (hi.ownClaims p mode h).imp_right fun ⟨_, hmem⟩ => ⟨rfl, hmem⟩ }

/-- ENC.SHUTDOWN's effect, with no handler run in progress. 41_encoder.md R143. -/
theorem Inv.shutdownEnc (hi : Inv s) (hphase : s.encPhase = .idle) (henc : s.encCfg = true) :
    Inv { s with
      encCfg := false, edgePending := false
      claimed := releaseAll s.claimed (encPinList s.cfg.pins) } :=
  { hi with
    claims := releaseAll_canonical _ hi.claims
    handler := fun h => absurd hphase h
    pending := nofun
    kpClaims := fun hkp e he => by
      refine releaseAll_keeps (fun hmem => ?_) (hi.kpClaims hkp e he)
      obtain ⟨f, hf, hfe⟩ := List.mem_map.1 hmem
      exact hi.pins_disjoint hkp henc he hf hfe.symm
    encClaims := nofun
    ownClaims := fun p mode hp => by
      obtain ⟨hnot, hold⟩ := releaseAll_source hp
      exact .inl ((hi.ownClaims p mode hold).resolve_right
        fun ⟨_, hmem⟩ => hnot (List.mem_map_of_mem hmem)) }

theorem execKpInit_keeps_inv (hi : Inv s) (hseq : s.seq = .idle) (h : execKpInit s = .next u) :
    Inv u := by
  rcases execKpInit_cases h with ⟨_, -, rfl⟩ | ⟨m, hm, rfl⟩
  · exact hi.raise hseq _
  · exact (hi.configureKp hseq hm).respond hseq _ (Nat.two_pow_pos _)

theorem execKpShutdown_keeps_inv (hi : Inv s) (hseq : s.seq = .idle)
    (h : execKpShutdown s = .next u) : Inv u := by
  rcases execKpShutdown_cases h with ⟨-, rfl⟩ | ⟨hkp, rfl⟩
  · exact hi.raise hseq _
  · exact (hi.shutdownKp hseq hkp).respond hseq _ (Nat.two_pow_pos _)

/-! ### The encoder's host commands -/

/-- A command that takes the lock keeps the invariant when its effect does. 41_encoder.md R144. -/
theorem withLock_keeps_inv {i : Instr} {f : State → Host.Outcome State Fault Refusal} (hi : Inv s)
    (hseq : s.seq = .idle) (hlock : i.takesLock = true) (hwf : i.wellFormed s.cfg.width = true)
    (hf : s.encPhase = .idle → f s = .next u → Inv u) (h : withLock i s f = .next u) : Inv u := by
  rcases withLock_cases h with ⟨-, rfl⟩ | ⟨hphase, h⟩
  · exact hi.accept hseq hlock hwf
  · exact hf hphase h

theorem encInitEffect_keeps_inv (hi : Inv s) (hseq : s.seq = .idle)
    (h : encInitEffect s = .next u) : Inv u := by
  rcases encInitEffect_cases h with ⟨_, -, rfl⟩ | ⟨m, hm, rfl⟩
  · exact hi.raise hseq _
  · exact (hi.configureEnc hm).respond hseq _ (Nat.two_pow_pos _)

theorem encGetposEffect_keeps_inv (hi : Inv s) (hseq : s.seq = .idle)
    (h : encGetposEffect s = .next u) : Inv u := by
  cases h
  exact hi.respond hseq _ (BitVec.isLt _)

theorem encSetposEffect_keeps_inv {v : Int} (hi : Inv s) (hseq : s.seq = .idle)
    (h : encSetposEffect v s = .next u) : Inv u := by
  cases h
  have hset : Inv { s with position := positionOperand s.cfg.width v } :=
    { hi with position := wrapPosition_inRange s.cfg.posWidth.atLeastTwo v }
  exact hset.respond hseq _ (Nat.two_pow_pos _)

theorem levelData_lt (v : Level) (n : Nat) : levelData v < 2 ^ dataWidth n :=
  calc levelData v < 2 ^ 1 := Bool.toNat_lt v
    _ ≤ 2 ^ dataWidth n := Nat.pow_le_pow_right two_pos (le_max_of_le_left (by decide))

theorem execEncGetbtn_keeps_inv (hi : Inv s) (hseq : s.seq = .idle)
    (h : execEncGetbtn s = .next u) : Inv u := by
  rcases execEncGetbtn_cases h with ⟨-, rfl⟩ | ⟨-, -, rfl⟩ | ⟨-, -, rfl⟩
  · exact hi.raise hseq _
  · exact hi.raise hseq _
  · exact hi.respond hseq _ (levelData_lt _ _)

theorem encShutdownEffect_keeps_inv (hi : Inv s) (hseq : s.seq = .idle)
    (hphase : s.encPhase = .idle) (h : encShutdownEffect s = .next u) : Inv u := by
  rcases encShutdownEffect_cases h with ⟨-, rfl⟩ | ⟨henc, rfl⟩
  · exact hi.raise hseq _
  · exact (hi.shutdownEnc hphase henc).respond hseq _ (Nat.two_pow_pos _)

/-! ### The edge handler -/

theorem edgeSampleA_keeps_inv (hi : Inv s) (henc : s.encCfg = true) : Inv (edgeSampleA s) := by
  rcases ha : accessOk s with _ | _
  · rw [edgeSampleA_of_fail ha]
    exact { hi with handler := fun _ => henc, pending := fun _ => henc }
  · rw [edgeSampleA_of_ok ha]
    exact { hi with handler := fun _ => henc, pending := fun _ => henc }

theorem edgeSampleB_keeps_inv (hi : Inv s) (henc : s.encCfg = true) : Inv (edgeSampleB s) := by
  rcases ha : accessOk s with _ | _
  · rw [edgeSampleB_of_fail ha]
    exact { hi with handler := fun _ => henc }
  · rw [edgeSampleB_of_ok ha]
    exact { hi with handler := fun _ => henc }

/-- A commit leaves the position in range, for a delta is added with a wrap. 41_encoder.md R138. -/
theorem edgeCommit_keeps_inv (hi : Inv s) (henc : s.encCfg = true) : Inv (edgeCommit s) :=
  { hi with
    position := applyDelta_inRange s.cfg.posWidth.atLeastTwo _ hi.position
    handler := fun _ => henc }

theorem execEncEdge_keeps_inv (hi : Inv s) (h : execEncEdge s = .next u) : Inv u := by
  rcases execEncEdge_cases h with ⟨-, -, rfl⟩ | ⟨-, henc, -, rfl⟩ | ⟨hphase, rfl⟩ | ⟨hphase, rfl⟩
  · exact hi
  · exact edgeSampleA_keeps_inv hi henc
  · exact edgeSampleB_keeps_inv hi (hi.handler (by simp [hphase]))
  · exact edgeCommit_keeps_inv hi (hi.handler (by simp [hphase]))

/-! ### Every instruction, turn and step -/

/-- Each meaning keeps the invariant, where only KP.SCAN and ENC.EDGE meet a scan in progress. -/
theorem exec_keeps_inv {i : Instr} (hi : Inv s)
    (hseq : i ≠ .kpScan → i ≠ .encEdge → s.seq = .idle) (hwf : i.wellFormed s.cfg.width = true)
    (h : exec i s = .next u) : Inv u := by
  cases i with
  | kpInit => exact execKpInit_keeps_inv hi (hseq nofun nofun) h
  | kpScan => exact execKpScan_keeps_inv hi h
  | kpShutdown => exact execKpShutdown_keeps_inv hi (hseq nofun nofun) h
  | encInit =>
    have hidle := hseq nofun nofun
    exact withLock_keeps_inv hi hidle rfl hwf (fun _ => encInitEffect_keeps_inv hi hidle) h
  | encGetpos =>
    have hidle := hseq nofun nofun
    exact withLock_keeps_inv hi hidle rfl hwf (fun _ => encGetposEffect_keeps_inv hi hidle) h
  | encSetpos v =>
    have hidle := hseq nofun nofun
    exact withLock_keeps_inv hi hidle rfl hwf (fun _ => encSetposEffect_keeps_inv hi hidle) h
  | encGetbtn => exact execEncGetbtn_keeps_inv hi (hseq nofun nofun) h
  | encShutdown =>
    have hidle := hseq nofun nofun
    exact withLock_keeps_inv hi hidle rfl hwf (encShutdownEffect_keeps_inv hi hidle) h
  | encEdge => exact execEncEdge_keeps_inv hi h

/-- A state of ENV's choice, with an edge recorded only for a configured encoder.
41_encoder.md R135. -/
theorem Inv.envStep (hi : Inv s) (e : Env) : Inv (s.envStep e) :=
  { hi with
    pending := fun h => by
      rw [State.envStep_edgePending, Bool.or_eq_true, Bool.and_eq_true] at h
      exact h.elim hi.pending And.left }

theorem inv_resetOf (c : Config) (e : Env) : Inv (State.resetOf c e) where
  position := operandInRange_zero _
  data := nofun
  claims := rfl
  busy := rfl
  unanswered := nofun
  operand := nofun
  scan := ⟨nofun, fun h => absurd rfl h⟩
  scanCfg := fun h => absurd rfl h
  rows := rfl
  handler := fun h => absurd rfl h
  pending := nofun
  kpClaims := nofun
  encClaims := nofun
  ownClaims := nofun

/-- Reset at any time: the registers as after reset, the responses as they were. -/
theorem Inv.applyReset (hi : Inv s) : Inv s.applyReset :=
  { inv_resetOf s.cfg s.env with data := hi.data }

theorem takeTurn_keeps_inv {t : Turn} (hi : Inv s) (h : takeTurn t s = .next u) : Inv u := by
  rcases takeTurn_cases h with ⟨w, d, -, ⟨-, rfl⟩ | ⟨hfree, e, -, rfl⟩ | ⟨hfree, i, hdec, h⟩⟩ |
    ⟨d, -, ⟨-, rfl⟩ | ⟨-, i, hcmd, h⟩⟩ | ⟨d, -, h⟩ | ⟨e, -, rfl⟩ | ⟨-, rfl⟩
  · exact hi.withDraw d
  · exact (hi.withDraw d).raise (hi.of_free hfree).2 _
  · exact exec_keeps_inv (hi.withDraw d) (fun _ _ => (hi.of_free hfree).2)
      (decodeHost_wellFormed s.cfg.posWidth.atLeastTwo hdec) h
  · exact hi.withDraw d
  · refine exec_keeps_inv (hi.withDraw d) (fun hscan _ => by_contra fun hseq => hscan ?_)
      (hi.operand i hcmd) h
    exact Option.some.inj (hcmd.symm.trans (hi.scan.2 hseq))
  · exact execEncEdge_keeps_inv (hi.withDraw d) h
  · exact hi.envStep e
  · exact hi.applyReset

/-- Settles O15: a step is a turn, and each turn keeps the invariant. -/
theorem everyStepKeepsTheInvariant : Obligations.EveryStepKeepsTheInvariant :=
  fun s _ hi h => takeTurn_keeps_inv hi.advance (step_eq_takeTurn s ▸ h)

/-- Settles O14: nothing is configured, claimed or in progress after reset. -/
theorem resetMeetsTheInvariant : Obligations.ResetMeetsTheInvariant :=
  ⟨inv_resetOf _ _, inv_resetOf⟩

/-! ### The rows, 10_state.md R28 -/

/-- An active row is the row of the scan's triple, from its ACT to its DEACT. -/
theorem Inv.seq_of_active (hi : Inv s) {i : Fin 4}
    (h : s.rowDrive.get i = .level s.cfg.rowActive) :
    ∃ c k, k ≠ .act ∧ s.seq = .run i c k := by
  have hof : ∀ r, ((restRows s).set r (.level s.cfg.rowActive)).get i = .level s.cfg.rowActive →
      i = r := fun r hr => by_contra fun hne =>
    restRows_inactive s i (Quad.get_set_ne (restRows s) _ hne ▸ hr)
  rw [hi.rows, expectedRows] at h
  split at h
  · exact absurd h (restRows_inactive s i)
  · exact absurd h (restRows_inactive s i)
  · next r c hseq => exact ⟨c, .sample, nofun, hof r h ▸ hseq⟩
  · next r c hseq => exact ⟨c, .deact, nofun, hof r h ▸ hseq⟩

/-- Settles O31: an active row is the one the scan's point names. -/
theorem atMostOneRowActive : Obligations.AtMostOneRowActive := by
  intro s hi
  refine ⟨fun hidle r hr => ?_, fun hseq r => ?_, fun i j hact hact' => ?_⟩
  · obtain ⟨c, k, -, h⟩ := hi.seq_of_active hr
    rw [hidle] at h
    cases h
  · have hkp : s.kpCfg = true := hi.scanCfg (by simp [hseq])
    simp [hi.rows_act hseq, restRows, hkp]
  · obtain ⟨c, k, -, h⟩ := hi.seq_of_active hact
    obtain ⟨c', k', -, h'⟩ := hi.seq_of_active hact'
    rw [h] at h'
    cases h'
    rfl

end Sys2Proof.Machine
end

section
/-! PROOFS. Frames: the build is fixed, and neither unit reads or writes the other's registers. -/

namespace Sys2Proof.Machine

variable {s u : State}

/-! ### The build, 10_state.md R32 -/

theorem scanIssue_cfg (s : State) : (scanIssue s).cfg = s.cfg := by
  unfold scanIssue; split <;> rfl

theorem scanActivate_cfg (s : State) (r : Fin 4) : (scanActivate s r).cfg = s.cfg := by
  rcases ha : accessOk s with _ | _
  · rw [scanActivate_of_fail ha]; rfl
  · rw [scanActivate_of_ok ha]

theorem scanSample_cfg (s : State) (r c : Fin 4) : (scanSample s r c).cfg = s.cfg := by
  rcases ha : accessOk s with _ | _
  · rw [scanSample_of_fail ha]; rfl
  · rw [scanSample_of_ok ha]

theorem scanDeactivate_cfg (s : State) (r : Fin 4) : (scanDeactivate s r).cfg = s.cfg := by
  unfold scanDeactivate; split <;> rfl

theorem execKpScan_cfg (h : execKpScan s = .next u) : u.cfg = s.cfg := by
  rcases execKpScan_cases h with ⟨-, rfl⟩ | ⟨r, _, -, rfl⟩ | ⟨r, c, -, rfl⟩ | ⟨r, _, -, rfl⟩
  · exact scanIssue_cfg s
  · exact scanActivate_cfg s r
  · exact scanSample_cfg s r c
  · exact scanDeactivate_cfg s r

theorem edgeSampleA_cfg (s : State) : (edgeSampleA s).cfg = s.cfg := by
  rcases ha : accessOk s with _ | _
  · rw [edgeSampleA_of_fail ha]
  · rw [edgeSampleA_of_ok ha]

theorem edgeSampleB_cfg (s : State) : (edgeSampleB s).cfg = s.cfg := by
  rcases ha : accessOk s with _ | _
  · rw [edgeSampleB_of_fail ha]
  · rw [edgeSampleB_of_ok ha]

theorem execEncEdge_cfg (h : execEncEdge s = .next u) : u.cfg = s.cfg := by
  rcases execEncEdge_cases h with ⟨-, -, rfl⟩ | ⟨-, -, -, rfl⟩ | ⟨-, rfl⟩ | ⟨-, rfl⟩
  · rfl
  · exact edgeSampleA_cfg s
  · exact edgeSampleB_cfg s
  · rfl

theorem withLock_cfg {i : Instr} {f : State → Host.Outcome State Fault Refusal}
    (hf : f s = .next u → u.cfg = s.cfg) (h : withLock i s f = .next u) : u.cfg = s.cfg := by
  rcases withLock_cases h with ⟨-, rfl⟩ | ⟨-, h⟩
  · rfl
  · exact hf h

theorem exec_cfg {i : Instr} (h : exec i s = .next u) : u.cfg = s.cfg := by
  cases i with
  | kpInit => rcases execKpInit_cases h with ⟨_, -, rfl⟩ | ⟨_, -, rfl⟩ <;> rfl
  | kpScan => exact execKpScan_cfg h
  | kpShutdown => rcases execKpShutdown_cases h with ⟨-, rfl⟩ | ⟨-, rfl⟩ <;> rfl
  | encInit =>
    refine withLock_cfg (fun h => ?_) h
    rcases encInitEffect_cases h with ⟨_, -, rfl⟩ | ⟨_, -, rfl⟩ <;> rfl
  | encGetpos => exact withLock_cfg (fun h => by cases h; rfl) h
  | encSetpos v => exact withLock_cfg (fun h => by cases h; rfl) h
  | encGetbtn =>
    rcases execEncGetbtn_cases h with ⟨-, rfl⟩ | ⟨-, -, rfl⟩ | ⟨-, -, rfl⟩ <;> rfl
  | encShutdown =>
    refine withLock_cfg (fun h => ?_) h
    rcases encShutdownEffect_cases h with ⟨-, rfl⟩ | ⟨-, rfl⟩ <;> rfl
  | encEdge => exact execEncEdge_cfg h

theorem takeTurn_cfg {t : Turn} (h : takeTurn t s = .next u) : u.cfg = s.cfg := by
  rcases takeTurn_instr h with ⟨_, _, -, h, -⟩ |
    ⟨-, ⟨_, rfl⟩ | ⟨_, _, -, -, rfl⟩ | ⟨_, -, rfl⟩ | ⟨-, rfl⟩⟩
  · exact (exec_cfg h).trans (s.withDraw_cfg _)
  · rfl
  · rfl
  · rfl
  · rfl

/-- Settles O13: no instruction writes the parameters, and no other turn does. -/
theorem configurationIsFixed : Obligations.ConfigurationIsFixed :=
  fun s _ h => (takeTurn_cfg (step_eq_takeTurn s ▸ h)).trans s.advance_cfg

/-! ### The registers of each unit -/

/-- The registers of unit ENC. 10_state.md R21 to R25, R36. -/
structure EncRegs where
  position    : Int
  prevA       : Level
  prevB       : Level
  edgePending : Bool
  encPhase    : EncPhase
  latchA      : Level
  latchB      : Level
  encCfg      : Bool
  encFault    : Bool

/-- The registers of unit KP. 10_state.md R26 to R30. -/
structure KpRegs where
  kpCfg    : Bool
  rowDrive : Quad Drive
  seq      : Seq
  keysAcc  : Keys

def State.encRegs (s : State) : EncRegs :=
  ⟨s.position, s.prevA, s.prevB, s.edgePending, s.encPhase, s.latchA, s.latchB, s.encCfg,
    s.encFault⟩

def State.kpRegs (s : State) : KpRegs := ⟨s.kpCfg, s.rowDrive, s.seq, s.keysAcc⟩

def State.withEncRegs (s : State) (r : EncRegs) : State :=
  { s with
    position := r.position, prevA := r.prevA, prevB := r.prevB, edgePending := r.edgePending
    encPhase := r.encPhase, latchA := r.latchA, latchB := r.latchB, encCfg := r.encCfg
    encFault := r.encFault }

def State.withKpRegs (s : State) (r : KpRegs) : State :=
  { s with kpCfg := r.kpCfg, rowDrive := r.rowDrive, seq := r.seq, keysAcc := r.keysAcc }

@[simp] theorem State.encRegs_withEncRegs (s : State) (r : EncRegs) :
    (s.withEncRegs r).encRegs = r := rfl
@[simp] theorem State.withEncRegs_encRegs (s : State) : s.withEncRegs s.encRegs = s := rfl
@[simp] theorem State.kpRegs_withKpRegs (s : State) (r : KpRegs) :
    (s.withKpRegs r).kpRegs = r := rfl
@[simp] theorem State.withKpRegs_kpRegs (s : State) : s.withKpRegs s.kpRegs = s := rfl

@[simp] theorem State.withEncRegs_cfg (s : State) (r : EncRegs) :
    (s.withEncRegs r).cfg = s.cfg := rfl
@[simp] theorem State.withEncRegs_claimed (s : State) (r : EncRegs) :
    (s.withEncRegs r).claimed = s.claimed := rfl
@[simp] theorem State.withEncRegs_seq (s : State) (r : EncRegs) :
    (s.withEncRegs r).seq = s.seq := rfl
@[simp] theorem State.withEncRegs_kpCfg (s : State) (r : EncRegs) :
    (s.withEncRegs r).kpCfg = s.kpCfg := rfl

@[simp] theorem State.withKpRegs_cfg (s : State) (r : KpRegs) :
    (s.withKpRegs r).cfg = s.cfg := rfl
@[simp] theorem State.withKpRegs_claimed (s : State) (r : KpRegs) :
    (s.withKpRegs r).claimed = s.claimed := rfl
@[simp] theorem State.withKpRegs_encCfg (s : State) (r : KpRegs) :
    (s.withKpRegs r).encCfg = s.encCfg := rfl
@[simp] theorem State.withKpRegs_encPhase (s : State) (r : KpRegs) :
    (s.withKpRegs r).encPhase = s.encPhase := rfl
@[simp] theorem handlerMayStart_withKpRegs (s : State) (r : KpRegs) :
    handlerMayStart (s.withKpRegs r) = handlerMayStart s := rfl

/-- The outcome with `g` applied to its next state. -/
def mapNext (g : State → State) :
    Host.Outcome State Fault Refusal → Host.Outcome State Fault Refusal
  | .next u => .next (g u)
  | .fault r => .fault r
  | .refused r => .refused r

/-- `f` neither reads nor writes what `g` replaces: replacing it before or after is the same. -/
def CommutesWith (g : State → State) (f : State → Host.Outcome State Fault Refusal) : Prop :=
  ∀ s, f (g s) = mapNext g (f s)

theorem CommutesWith.next {g : State → State} {f : State → Host.Outcome State Fault Refusal}
    (hf : CommutesWith g f) (h : f s = .next u) : f (g s) = .next (g u) := by
  rw [hf, h, mapNext]

/-- A replacement that changes nothing before `f` changes nothing after it. -/
theorem CommutesWith.fixed {g : State → State} {f : State → Host.Outcome State Fault Refusal}
    (hf : CommutesWith g f) (hg : g s = s) (h : f s = .next u) : g u = u := by
  have hgu := hf.next h
  rw [hg, h] at hgu
  exact (Host.Outcome.next.inj hgu).symm

/-! ### KP commands and the ENC registers, 10_state.md R41 -/

section
variable (r : EncRegs)

theorem scanIssue_withEncRegs (s : State) :
    scanIssue (s.withEncRegs r) = (scanIssue s).withEncRegs r := by
  rcases hk : s.kpCfg <;> simp only [scanIssue, State.withEncRegs_kpCfg, hk] <;> rfl

theorem scanActivate_withEncRegs (s : State) (i : Fin 4) :
    scanActivate (s.withEncRegs r) i = (scanActivate s i).withEncRegs r := by
  rcases ha : accessOk s with _ | _
  · rw [scanActivate_of_fail ha, scanActivate_of_fail (s := s.withEncRegs r) ha]; rfl
  · rw [scanActivate_of_ok ha, scanActivate_of_ok (s := s.withEncRegs r) ha]; rfl

theorem scanSample_withEncRegs (s : State) (i c : Fin 4) :
    scanSample (s.withEncRegs r) i c = (scanSample s i c).withEncRegs r := by
  rcases ha : accessOk s with _ | _
  · rw [scanSample_of_fail ha, scanSample_of_fail (s := s.withEncRegs r) ha]; rfl
  · rw [scanSample_of_ok ha, scanSample_of_ok (s := s.withEncRegs r) ha]; rfl

theorem scanDeactivate_withEncRegs (s : State) (i : Fin 4) :
    scanDeactivate (s.withEncRegs r) i = (scanDeactivate s i).withEncRegs r := by
  unfold scanDeactivate
  split <;> rfl

theorem execKpInit_commutesWith_encRegs : CommutesWith (·.withEncRegs r) execKpInit := by
  intro s
  simp only [execKpInit, State.withEncRegs_cfg, State.withEncRegs_claimed]
  split <;> rfl

theorem execKpScan_commutesWith_encRegs : CommutesWith (·.withEncRegs r) execKpScan := by
  intro s
  simp only [execKpScan, State.withEncRegs_seq]
  split
  · rw [scanIssue_withEncRegs]; rfl
  · rw [scanActivate_withEncRegs]; rfl
  · rw [scanSample_withEncRegs]; rfl
  · rw [scanDeactivate_withEncRegs]; rfl

theorem execKpShutdown_commutesWith_encRegs : CommutesWith (·.withEncRegs r) execKpShutdown := by
  intro s
  rcases hk : s.kpCfg <;> simp only [execKpShutdown, State.withEncRegs_kpCfg, hk] <;> rfl

theorem exec_commutesWith_encRegs {i : Instr} (hi : i = .kpInit ∨ i = .kpScan ∨ i = .kpShutdown) :
    CommutesWith (·.withEncRegs r) (exec i) := by
  rcases hi with rfl | rfl | rfl
  · exact execKpInit_commutesWith_encRegs r
  · exact execKpScan_commutesWith_encRegs r
  · exact execKpShutdown_commutesWith_encRegs r

end

/-- A KP command leaves the ENC registers. -/
theorem execKp_encRegs {i : Instr} (hi : i = .kpInit ∨ i = .kpScan ∨ i = .kpShutdown)
    (h : exec i s = .next u) : u.encRegs = s.encRegs := by
  rw [← (exec_commutesWith_encRegs s.encRegs hi).fixed s.withEncRegs_encRegs h,
    State.encRegs_withEncRegs]

/-! ### ENC commands, ENC.EDGE and the KP registers, 10_state.md R41 -/

section
variable (r : KpRegs)

theorem withLock_commutesWith_kpRegs {i : Instr} {f : State → Host.Outcome State Fault Refusal}
    (hf : CommutesWith (·.withKpRegs r) f) :
    CommutesWith (·.withKpRegs r) (fun s => withLock i s f) := by
  intro s
  by_cases hphase : s.encPhase = .idle
  · simp only [withLock_of_idle hphase, withLock_of_idle (s := s.withKpRegs r) hphase]
    exact hf s
  · simp only [withLock_of_run hphase, withLock_of_run (s := s.withKpRegs r) hphase]
    rfl

theorem encInitEffect_commutesWith_kpRegs : CommutesWith (·.withKpRegs r) encInitEffect := by
  intro s
  simp only [encInitEffect, State.withKpRegs_cfg, State.withKpRegs_claimed]
  split <;> rfl

theorem execEncGetbtn_commutesWith_kpRegs : CommutesWith (·.withKpRegs r) execEncGetbtn := by
  intro s
  have hread : gpioRead (s.withKpRegs r) .btn = gpioRead s .btn := rfl
  rcases hc : s.encCfg
  · simp only [execEncGetbtn, State.withKpRegs_encCfg, hc]; rfl
  · simp only [execEncGetbtn, State.withKpRegs_encCfg, hc, hread, if_true]
    split <;> rfl

theorem encShutdownEffect_commutesWith_kpRegs :
    CommutesWith (·.withKpRegs r) encShutdownEffect := by
  intro s
  rcases hc : s.encCfg <;> simp only [encShutdownEffect, State.withKpRegs_encCfg, hc] <;> rfl

theorem edgeSampleA_withKpRegs (s : State) :
    edgeSampleA (s.withKpRegs r) = (edgeSampleA s).withKpRegs r := by
  rcases ha : accessOk s with _ | _
  · rw [edgeSampleA_of_fail ha, edgeSampleA_of_fail (s := s.withKpRegs r) ha]; rfl
  · rw [edgeSampleA_of_ok ha, edgeSampleA_of_ok (s := s.withKpRegs r) ha]; rfl

theorem edgeSampleB_withKpRegs (s : State) :
    edgeSampleB (s.withKpRegs r) = (edgeSampleB s).withKpRegs r := by
  rcases ha : accessOk s with _ | _
  · rw [edgeSampleB_of_fail ha, edgeSampleB_of_fail (s := s.withKpRegs r) ha]; rfl
  · rw [edgeSampleB_of_ok ha, edgeSampleB_of_ok (s := s.withKpRegs r) ha]; rfl

theorem execEncEdge_commutesWith_kpRegs : CommutesWith (·.withKpRegs r) execEncEdge := by
  intro s
  simp only [execEncEdge, State.withKpRegs_encPhase]
  split
  · rcases hm : handlerMayStart s
    · simp only [handlerMayStart_withKpRegs, hm]; rfl
    · simp only [handlerMayStart_withKpRegs, hm, edgeSampleA_withKpRegs]; rfl
  · rw [edgeSampleB_withKpRegs]; rfl
  · rfl

theorem exec_commutesWith_kpRegs {i : Instr} (hinit : i ≠ .kpInit) (hscan : i ≠ .kpScan)
    (hshut : i ≠ .kpShutdown) : CommutesWith (·.withKpRegs r) (exec i) := by
  cases i with
  | kpInit => exact absurd rfl hinit
  | kpScan => exact absurd rfl hscan
  | kpShutdown => exact absurd rfl hshut
  | encInit => exact withLock_commutesWith_kpRegs r (encInitEffect_commutesWith_kpRegs r)
  | encGetpos => exact withLock_commutesWith_kpRegs r fun _ => rfl
  | encSetpos v => exact withLock_commutesWith_kpRegs r fun _ => rfl
  | encGetbtn => exact execEncGetbtn_commutesWith_kpRegs r
  | encShutdown => exact withLock_commutesWith_kpRegs r (encShutdownEffect_commutesWith_kpRegs r)
  | encEdge => exact execEncEdge_commutesWith_kpRegs r

end

/-- An ENC command and ENC.EDGE leave the KP registers. -/
theorem execEnc_kpRegs {i : Instr} (hinit : i ≠ .kpInit) (hscan : i ≠ .kpScan)
    (hshut : i ≠ .kpShutdown) (h : exec i s = .next u) : u.kpRegs = s.kpRegs := by
  rw [← (exec_commutesWith_kpRegs s.kpRegs hinit hscan hshut).fixed s.withKpRegs_kpRegs h,
    State.kpRegs_withKpRegs]

/-- Settles O58: each unit's instructions commute with a replacement of the other's registers. -/
theorem unitsAreIndependent : Obligations.UnitsAreIndependent := by
  intro s p a b la lb e f g ph k rd q acc
  constructor
  · intro i hi u h
    have hframe := execKp_encRegs hi h
    simp only [State.encRegs, EncRegs.mk.injEq] at hframe
    obtain ⟨hpos, hpA, hpB, hpend, hphase, hlA, hlB, hcfg, hfault⟩ := hframe
    exact ⟨hpos, hpA, hpB, hpend, hphase, hlA, hlB, hcfg, hfault,
      (exec_commutesWith_encRegs ⟨p, a, b, e, ph, la, lb, f, g⟩ hi).next h⟩
  · intro i hinit hscan hshut u h
    have hframe := execEnc_kpRegs hinit hscan hshut h
    simp only [State.kpRegs, KpRegs.mk.injEq] at hframe
    obtain ⟨hkp, hrow, hseq, hacc⟩ := hframe
    exact ⟨hkp, hrow, hseq, hacc,
      (exec_commutesWith_kpRegs ⟨k, rd, q, acc⟩ hinit hscan hshut).next h⟩

end Sys2Proof.Machine
end

section
/-! PROOFS. Rules of the whole machine: what writes the encoder's registers. -/

namespace Sys2Proof.Machine

variable {s u : State}

/-! ### The edge handler, micro-step by micro-step -/

/-- The two sampling steps leave the position and the levels before. 41_encoder.md R136, R137. -/
@[simp] theorem edgeSampleA_position (s : State) : (edgeSampleA s).position = s.position := by
  rcases ha : accessOk s <;> simp [edgeSampleA_of_fail, edgeSampleA_of_ok, ha]
@[simp] theorem edgeSampleA_prevA (s : State) : (edgeSampleA s).prevA = s.prevA := by
  rcases ha : accessOk s <;> simp [edgeSampleA_of_fail, edgeSampleA_of_ok, ha]
@[simp] theorem edgeSampleA_prevB (s : State) : (edgeSampleA s).prevB = s.prevB := by
  rcases ha : accessOk s <;> simp [edgeSampleA_of_fail, edgeSampleA_of_ok, ha]
@[simp] theorem edgeSampleB_position (s : State) : (edgeSampleB s).position = s.position := by
  rcases ha : accessOk s <;> simp [edgeSampleB_of_fail, edgeSampleB_of_ok, ha]
@[simp] theorem edgeSampleB_prevA (s : State) : (edgeSampleB s).prevA = s.prevA := by
  rcases ha : accessOk s <;> simp [edgeSampleB_of_fail, edgeSampleB_of_ok, ha]
@[simp] theorem edgeSampleB_prevB (s : State) : (edgeSampleB s).prevB = s.prevB := by
  rcases ha : accessOk s <;> simp [edgeSampleB_of_fail, edgeSampleB_of_ok, ha]

/-- A sampling step records a failed read, and keeps the record. 41_encoder.md R139. -/
@[simp] theorem edgeSampleA_encFault (s : State) :
    (edgeSampleA s).encFault = (s.encFault || !accessOk s) := by
  rcases ha : accessOk s <;> simp [edgeSampleA_of_fail, edgeSampleA_of_ok, ha]
@[simp] theorem edgeSampleB_encFault (s : State) :
    (edgeSampleB s).encFault = (s.encFault || !accessOk s) := by
  rcases ha : accessOk s <;> simp [edgeSampleB_of_fail, edgeSampleB_of_ok, ha]

/-- A micro-step that is no commit leaves the position and the levels before. -/
theorem execEncEdge_keeps_of_ne_gotB (h : execEncEdge s = .next u) (hphase : s.encPhase ≠ .gotB) :
    u.position = s.position ∧ u.prevA = s.prevA ∧ u.prevB = s.prevB := by
  rcases execEncEdge_cases h with ⟨-, -, rfl⟩ | ⟨-, -, -, rfl⟩ | ⟨-, rfl⟩ | ⟨hgotB, -⟩
  · simp
  · simp
  · simp
  · exact absurd hgotB hphase

/-- A commit stores the latched levels. 41_encoder.md R138. -/
theorem execEncEdge_prev_of_gotB (h : execEncEdge s = .next u) (hphase : s.encPhase = .gotB) :
    u.prevA = s.latchA ∧ u.prevB = s.latchB := by
  rw [execEncEdge, hphase] at h
  cases h
  exact ⟨rfl, rfl⟩

/-- The micro-step reads a line: it is step 1, enabled, or step 2. 41_encoder.md R136, R137. -/
def edgeReads (s : State) : Prop := edgeEnabled s ∧ s.encPhase ≠ .gotB

theorem edgeReads_iff : edgeReads s ↔
    (s.encPhase = .idle ∧ handlerMayStart s = true) ∨ s.encPhase = .gotA := by
  rcases hphase : s.encPhase <;> simp [edgeReads, edgeEnabled, hphase]

theorem execEncEdge_encFault_of_reads (h : execEncEdge s = .next u) (hr : edgeReads s) :
    u.encFault = (s.encFault || !accessOk s) := by
  rcases edgeReads_iff.1 hr with ⟨hphase, hstart⟩ | hphase
  · simp only [execEncEdge, hphase, hstart, if_true] at h
    cases h
    exact edgeSampleA_encFault s
  · simp only [execEncEdge, hphase] at h
    cases h
    exact edgeSampleB_encFault s

theorem execEncEdge_encFault_of_not_reads (h : execEncEdge s = .next u) (hr : ¬ edgeReads s) :
    u.encFault = s.encFault := by
  rcases execEncEdge_cases h with ⟨-, -, rfl⟩ | ⟨hphase, hcfg, hpend, -⟩ | ⟨hphase, -⟩ | ⟨-, rfl⟩
  · rfl
  · have hstart : handlerMayStart s = true := by simp [handlerMayStart, hcfg, hpend, hphase]
    exact absurd (edgeReads_iff.2 (.inl ⟨hphase, hstart⟩)) hr
  · exact absurd (edgeReads_iff.2 (.inr hphase)) hr
  · rfl

/-! ### Every instruction -/

/-- What a command that takes the lock does to the ENC registers, its effect does. -/
theorem withLock_encRegs_cases {i : Instr} {f : State → Host.Outcome State Fault Refusal}
    (h : withLock i s f = .next u) : u.encRegs = s.encRegs ∨ f s = .next u := by
  rcases withLock_cases h with ⟨-, rfl⟩ | ⟨-, h⟩
  · exact .inl rfl
  · exact .inr h

/-- What an instruction can do to the ENC registers. -/
theorem exec_encRegs_cases {i : Instr} (h : exec i s = .next u) :
    u.encRegs = s.encRegs ∨
    (i = .encInit ∧ u.encRegs = { s.encRegs with
      position := 0, prevA := false, prevB := false, edgePending := false, encCfg := true }) ∨
    (∃ v, i = .encSetpos v ∧
      u.encRegs = { s.encRegs with position := positionOperand s.cfg.width v }) ∨
    (i = .encShutdown ∧ u.encRegs = { s.encRegs with encCfg := false, edgePending := false }) ∨
    (i = .encEdge ∧ execEncEdge s = .next u) := by
  cases i with
  | kpInit => exact .inl (execKp_encRegs (.inl rfl) h)
  | kpScan => exact .inl (execKp_encRegs (.inr (.inl rfl)) h)
  | kpShutdown => exact .inl (execKp_encRegs (.inr (.inr rfl)) h)
  | encInit =>
    rcases withLock_encRegs_cases h with h | h
    · exact .inl h
    · rcases encInitEffect_cases h with ⟨_, -, rfl⟩ | ⟨_, -, rfl⟩
      · exact .inl rfl
      · exact .inr (.inl ⟨rfl, rfl⟩)
  | encGetpos =>
    rcases withLock_encRegs_cases h with h | h
    · exact .inl h
    · cases h
      exact .inl rfl
  | encSetpos v =>
    rcases withLock_encRegs_cases h with h | h
    · exact .inl h
    · cases h
      exact .inr (.inr (.inl ⟨v, rfl, rfl⟩))
  | encGetbtn =>
    rcases execEncGetbtn_cases h with ⟨-, rfl⟩ | ⟨-, -, rfl⟩ | ⟨-, -, rfl⟩ <;> exact .inl rfl
  | encShutdown =>
    rcases withLock_encRegs_cases h with h | h
    · exact .inl h
    · rcases encShutdownEffect_cases h with ⟨-, rfl⟩ | ⟨-, rfl⟩
      · exact .inl rfl
      · exact .inr (.inr (.inr (.inl ⟨rfl, rfl⟩)))
  | encEdge => exact .inr (.inr (.inr (.inr ⟨rfl, h⟩)))

/-- What an instruction can do to the levels before. -/
theorem exec_prev_cases {i : Instr} (h : exec i s = .next u) :
    (u.prevA = s.prevA ∧ u.prevB = s.prevB) ∨
    (i = .encInit ∧ u.prevA = false ∧ u.prevB = false) ∨
    (i = .encEdge ∧ s.encPhase = .gotB ∧ u.prevA = s.latchA ∧ u.prevB = s.latchB) := by
  rcases exec_encRegs_cases h with hr | ⟨rfl, hr⟩ | ⟨v, -, hr⟩ | ⟨-, hr⟩ | ⟨rfl, h⟩
  · exact .inl ⟨congrArg EncRegs.prevA hr, congrArg EncRegs.prevB hr⟩
  · exact .inr (.inl ⟨rfl, congrArg EncRegs.prevA hr, congrArg EncRegs.prevB hr⟩)
  · exact .inl ⟨congrArg EncRegs.prevA hr, congrArg EncRegs.prevB hr⟩
  · exact .inl ⟨congrArg EncRegs.prevA hr, congrArg EncRegs.prevB hr⟩
  · by_cases hphase : s.encPhase = .gotB
    · exact .inr (.inr ⟨rfl, hphase, execEncEdge_prev_of_gotB h hphase⟩)
    · exact .inl (execEncEdge_keeps_of_ne_gotB h hphase).2

/-- What an instruction can do to the position. -/
theorem exec_position_cases {i : Instr} (h : exec i s = .next u) :
    u.position = s.position ∨
    (∃ v, i = .encSetpos v ∧ u.position = positionOperand s.cfg.width v) ∨
    (i = .encEdge ∧ s.encPhase = .gotB) ∨
    (i = .encInit ∧ u.position = 0) := by
  rcases exec_encRegs_cases h with hr | ⟨rfl, hr⟩ | ⟨v, rfl, hr⟩ | ⟨-, hr⟩ | ⟨rfl, h⟩
  · exact .inl (congrArg EncRegs.position hr)
  · exact .inr (.inr (.inr ⟨rfl, congrArg EncRegs.position hr⟩))
  · exact .inr (.inl ⟨v, rfl, congrArg EncRegs.position hr⟩)
  · exact .inl (congrArg EncRegs.position hr)
  · by_cases hphase : s.encPhase = .gotB
    · exact .inr (.inr (.inl ⟨rfl, hphase⟩))
    · exact .inl (execEncEdge_keeps_of_ne_gotB h hphase).1

/-- What an instruction can do to the fault record: only a failed read of the handler sets it. -/
theorem exec_encFault_cases {i : Instr} (h : exec i s = .next u) :
    u.encFault = s.encFault ∨
    (i = .encEdge ∧ edgeReads s ∧ accessOk s = false ∧ u.encFault = true) := by
  rcases exec_encRegs_cases h with hr | ⟨-, hr⟩ | ⟨_, -, hr⟩ | ⟨-, hr⟩ | ⟨rfl, h⟩
  · exact .inl (congrArg EncRegs.encFault hr)
  · exact .inl (congrArg EncRegs.encFault hr)
  · exact .inl (congrArg EncRegs.encFault hr)
  · exact .inl (congrArg EncRegs.encFault hr)
  · by_cases hreads : edgeReads s
    · have hset := execEncEdge_encFault_of_reads h hreads
      rcases ha : accessOk s
      · exact .inr ⟨rfl, hreads, rfl, by simp [hset, ha]⟩
      · exact .inl (by simp [hset, ha])
    · exact .inl (execEncEdge_encFault_of_not_reads h hreads)

/-! ### Every turn -/

/-- A turn that runs no instruction and is no reset leaves the registers of ENC that are not set by
an edge. -/
theorem takeTurn_keeps_of_no_instr {t : Turn} (h : takeTurn t s = .next u)
    (hnone : turnInstr t s = none) (hreset : t ≠ .reset) :
    u.position = s.position ∧ u.prevA = s.prevA ∧ u.prevB = s.prevB ∧
      u.encFault = s.encFault := by
  rcases takeTurn_instr h with ⟨i, _, hi, -, -⟩ |
    ⟨-, ⟨_, rfl⟩ | ⟨_, _, -, -, rfl⟩ | ⟨_, -, rfl⟩ | ⟨rfl, -⟩⟩
  · simp [hi] at hnone
  · simp
  · simp
  · simp
  · exact absurd rfl hreset

/-- A turn is a reset, runs no instruction, or runs one under its draw. -/
theorem takeTurn_reset_or_instr {t : Turn} (h : takeTurn t s = .next u) :
    t = .reset ∨ (t ≠ .reset ∧ turnInstr t s = none) ∨
      ∃ i d, turnInstr t s = some i ∧ exec i (s.withDraw d) = .next u ∧
        (t = .edge d ∨ (∃ w, t = .issue w d) ∨ t = .cont d) := by
  by_cases hreset : t = .reset
  · exact .inl hreset
  · rcases takeTurn_instr h with ⟨i, d, hi, hexec, hturn⟩ | ⟨hnone, -⟩
    · exact .inr (.inr ⟨i, d, hi, hexec,
        hturn.imp_right (Or.imp (fun ⟨w, hw, _⟩ => ⟨w, hw⟩) And.left)⟩)
    · exact .inr (.inl ⟨hreset, hnone⟩)

/-- Settles O53: among the instructions only ENC.INIT and the commit write the levels before. -/
theorem onlyTheHandlerAndInitWritePrev : Obligations.OnlyTheHandlerAndInitWritePrev := by
  intro t s u h hne
  rcases takeTurn_reset_or_instr h with hreset | ⟨hreset, hnone⟩ | ⟨i, d, hi, hexec, -⟩
  · exact .inr (.inr hreset)
  · obtain ⟨-, hA, hB, -⟩ := takeTurn_keeps_of_no_instr h hnone hreset
    simp [hA, hB] at hne
  · rcases exec_prev_cases hexec with ⟨hA, hB⟩ | ⟨rfl, hprev⟩ | ⟨rfl, hprev⟩
    · simp [hA, hB] at hne
    · exact .inr (.inl ⟨hi, hprev⟩)
    · exact .inl ⟨hi, hprev⟩

/-- Settles O54: among the instructions only ENC.SETPOS, the commit and ENC.INIT write the
position. -/
theorem onlyFourThingsWriteThePosition : Obligations.OnlyFourThingsWriteThePosition := by
  intro t s u h hne
  rcases takeTurn_reset_or_instr h with hreset | ⟨hreset, hnone⟩ | ⟨i, d, hi, hexec, -⟩
  · exact .inr (.inr (.inr hreset))
  · exact absurd (takeTurn_keeps_of_no_instr h hnone hreset).1 hne
  · rcases exec_position_cases hexec with hpos | ⟨v, rfl, hpos⟩ | ⟨rfl, hphase⟩ | ⟨rfl, hpos⟩
    · exact absurd hpos hne
    · exact .inl ⟨v, hi,
        fun hv => hpos.trans (wrapPosition_of_inRange s.cfg.posWidth.atLeastTwo hv)⟩
    · exact .inr (.inl ⟨hi, hphase⟩)
    · exact .inr (.inr (.inl ⟨hi, hpos⟩))

/-- Only EDGE's turn runs ENC.EDGE: the host port refuses it and it is never accepted.
30_encoding.md R78. -/
theorem Inv.edge_of_turnInstr {t : Turn} (hi : Inv s) (h : turnInstr t s = some .encEdge) :
    isEdge t = true := by
  cases t with
  | issue w d =>
    rcases hb : s.hostBusy <;> simp only [turnInstr, hb] at h
    · rcases hdec : decodeHostWord s.cfg.width w with e | i <;> simp [hdec, Except.toOption] at h
      exact absurd (h ▸ hdec) decodeHost_ne_encEdge
    · simp at h
  | cont d =>
    rcases hb : s.hostBusy <;> simp [turnInstr, hb] at h
    rcases hi.unanswered _ h with hscan | hlock
    · cases hscan
    · cases hlock
  | edge d => rfl
  | env e => cases h
  | reset => cases h

/-- What a turn other than reset can do to the fault record. -/
theorem Inv.takeTurn_encFault_cases {t : Turn} (hi : Inv s) (h : takeTurn t s = .next u)
    (hreset : t ≠ .reset) :
    u.encFault = s.encFault ∨
    (u.encFault = true ∧ ∃ d, t = .edge d ∧ accessOk (s.withDraw d) = false ∧ edgeReads s) := by
  rcases takeTurn_reset_or_instr h with hr | ⟨-, hnone⟩ | ⟨i, d, hinstr, hexec, hturn⟩
  · exact absurd hr hreset
  · obtain ⟨-, -, -, hfault⟩ := takeTurn_keeps_of_no_instr h hnone hreset
    exact .inl hfault
  · rcases exec_encFault_cases hexec with hfault | ⟨rfl, hreads, ha, hfault⟩
    · exact .inl hfault
    · have hedge := hi.edge_of_turnInstr hinstr
      rcases hturn with rfl | ⟨w, rfl⟩ | rfl
      · exact .inr ⟨hfault, d, rfl, ha, hreads⟩
      · cases hedge
      · cases hedge

/-- Settles O55: the record follows from what a turn can do to it, and from what a failed read of
the handler does. -/
theorem faultRecordIsSticky : Obligations.FaultRecordIsSticky := by
  intro t s u hi h
  refine ⟨rfl, fun hset hreset => ?_, fun hreset => ?_, fun d ht hio hd hen hphase => ?_,
    fun hclear hset => ?_⟩
  · rcases hi.takeTurn_encFault_cases h hreset with hfault | ⟨hfault, -⟩
    · rw [hfault, hset]
    · exact hfault
  · subst hreset
    cases h
    rfl
  · subst ht
    have ha : accessOk (s.withDraw d) = false := (accessOk_false_iff _).2 ⟨hio, hd⟩
    have hfault := execEncEdge_encFault_of_reads h ⟨hen, hphase⟩
    simp [hfault, ha]
  · have hreset : t ≠ .reset := by
      rintro rfl
      cases h
      cases hset
    rcases hi.takeTurn_encFault_cases h hreset with hfault | ⟨-, d, ht, ha, hen, hphase⟩
    · rw [hfault, hclear] at hset
      cases hset
    · obtain ⟨hio, hd⟩ := (accessOk_false_iff _).1 ha
      exact ⟨d, ht, hio, hd, hen, hphase⟩

end Sys2Proof.Machine
end

section
/-! PROOFS. What a step runs, and the registers after reset. -/

namespace Sys2Proof.Machine

variable {s : State}

/-- A listed turn is taken and used up. Log 3. -/
theorem step_of_cons {t : Turn} {rest : List Turn} (h : s.schedule = t :: rest) :
    step s = takeTurn t { s with schedule := rest } := by
  simp [step, nextTurn, State.advance, h]

/-- With no turn listed the free turn is taken. Log 3. -/
theorem step_of_nil (h : s.schedule = []) :
    step s = takeTurn (Config.freeTurn s.clock) { s with clock := s.clock + 1 } := by
  simp [step, nextTurn, State.advance, h]

/-- HOST's issue runs the command that the word decodes to. 30_encoding.md R74, R82. -/
theorem takeTurn_issue_of_ok {w : Nat} {d : Draw} {i : Instr} (hfree : s.hostBusy = false)
    (hdec : decodeHostWord s.cfg.width w = .ok i) :
    takeTurn (.issue w d) s = exec i (s.withDraw d) := by
  simp [takeTurn, issueCommand, hfree, hdec]

theorem takeTurn_cont_of_cmd {d : Draw} {i : Instr} (hbusy : s.hostBusy = true)
    (hcmd : s.cmd = some i) : takeTurn (.cont d) s = exec i (s.withDraw d) := by
  simp [takeTurn, continueCommand, hbusy, hcmd]

/-- Settles O8: the first listed turn is taken, and runs the instruction it names. -/
theorem stepRunsTheDecodedInstruction : Obligations.StepRunsTheDecodedInstruction := by
  intro s rest d
  refine ⟨fun w i hs hfree hdec => ?_, fun i hs hbusy hcmd => ?_, fun hs => ?_, fun e hs => ?_,
    fun hs => ?_, step_of_nil⟩
  · rw [step_of_cons hs]
    exact takeTurn_issue_of_ok hfree hdec
  · rw [step_of_cons hs]
    exact takeTurn_cont_of_cmd hbusy hcmd
  · rw [step_of_cons hs]; rfl
  · rw [step_of_cons hs]; rfl
  · rw [step_of_cons hs]; rfl

/-- Settles O16: `State.resetOf` writes the table of 10_state.md R39. -/
theorem resetValues : Obligations.ResetValues := by
  intro c e
  have hrows : ∀ r, (State.resetOf c e).rowDrive.get r = .z := Quad.get_all4 Drive.z
  exact ⟨rfl, rfl, rfl, rfl, rfl, rfl, rfl, rfl, hrows, rfl, rfl, rfl, rfl, rfl⟩

end Sys2Proof.Machine
end

section
/-! PROOFS. Pins and claims: when `ClaimAll` fails, what a release and a pin access do, and that the
core touches no line it has not claimed. 20_memory.md R52, R53, R54. -/

namespace Sys2Proof.Machine

variable {s u : State}

/-! ### Claim and release, 20_memory.md R54 -/

section
variable {c : Config} {m : Claims} {l : List (PinId × PinMode)}

theorem checkClaim_eq_none_iff {seen : List PinId} {p : PinId} {mode : PinMode} :
    checkClaim c m seen p mode = none ↔
      (pinExists c p = true ∧ claimMode m p = none ∧ pinSupports c p mode = true) ∧
        p ∉ seen := by
  unfold checkClaim
  split
  · simp_all
  · split
    · next hused =>
      rw [Bool.or_eq_true, Option.isSome_iff_ne_none, List.contains_iff_mem] at hused
      simp only [reduceCtorEq, false_iff]
      tauto
    · simp_all

/-- The checks pass exactly on a list of distinct pins, each of them present, free, unseen and fit
for its mode. -/
theorem firstClaimFailure_eq_none_iff {seen : List PinId} :
    firstClaimFailure c m seen l = none ↔
      (∀ e ∈ l, checkClaim c m seen e.1 e.2 = none) ∧ (l.map Prod.fst).Nodup := by
  induction l generalizing seen with
  | nil => simp [firstClaimFailure]
  | cons e rest ih =>
    have hhead : firstClaimFailure c m seen (e :: rest) = none ↔
        checkClaim c m seen e.1 e.2 = none ∧ firstClaimFailure c m (e.1 :: seen) rest = none := by
      simp only [firstClaimFailure]
      split <;> simp_all
    have hdistinct : e.1 ∉ rest.map Prod.fst ↔ ∀ f ∈ rest, f.1 ≠ e.1 := by
      simp only [List.mem_map, not_exists, not_and, ne_eq]
    rw [hhead, ih, List.forall_mem_cons, List.map_cons, List.nodup_cons, hdistinct]
    simp only [checkClaim_eq_none_iff, List.mem_cons, not_or]
    grind

theorem claimAll_error_iff :
    (∃ f, claimAll c m l = .error f) ↔ firstClaimFailure c m [] l ≠ none := by
  unfold claimAll
  split <;> simp_all

/-- The checks pass exactly where none of R54's causes is met. -/
theorem not_claimMustFail_iff :
    ¬ claimMustFail c m l ↔ firstClaimFailure c m [] l = none := by
  simp only [claimMustFail, not_or, not_exists, not_and, not_not, Bool.not_eq_false,
    Bool.not_eq_true, Option.isSome_eq_false_iff, Option.isNone_iff_eq_none,
    firstClaimFailure_eq_none_iff, checkClaim_eq_none_iff, List.not_mem_nil, not_false_eq_true,
    and_true, forall_and]
  tauto

end

/-- Settles O18: `ClaimAll` fails when its checks do, and they fail on R54's causes only. -/
theorem claimAllIsAllOrNothing : Obligations.ClaimAllIsAllOrNothing :=
  fun _ _ _ => ⟨claimAll_error_iff.trans (not_iff_comm.1 not_claimMustFail_iff),
    fun _ h => ⟨claimAll_claims h, fun _ hp => claimAll_of_notMem h hp⟩⟩

/-- Settles O19: a release read pin by pin. -/
theorem releaseRemovesTheListedPins : Obligations.ReleaseRemovesTheListedPins :=
  fun m l p => ⟨fun hp => (claimMode_releaseAll m l p).trans (if_pos hp),
    fun hp => (claimMode_releaseAll m l p).trans (if_neg hp)⟩

/-! ### Pin access, 20_memory.md R52, R53 -/

theorem gpioWrite_of_inactive {v : Level} (h : v ≠ s.cfg.rowActive) (r : Fin 4) :
    gpioWrite s r v = some { s with rowDrive := s.rowDrive.set r (.level v) } := by
  simp [gpioWrite, h]

/-- Settles O20: an activating write follows the access, a deactivating one never fails. -/
theorem onlyActivatingWritesFail : Obligations.OnlyActivatingWritesFail := by
  intro s r v
  constructor
  · rintro rfl hio hd
    exact gpioWrite_active_of_fail ((accessOk_false_iff s).2 ⟨hio, hd⟩) r
  · rintro (hv | hok)
    · exact gpioWrite_of_inactive hv r
    · exact gpioWrite_of_ok ((accessOk_iff s).2 hok) r v

/-- Settles O21: a read follows the access, and answers the line's level. -/
theorem readsAnswerTheLiveLevel : Obligations.ReadsAnswerTheLiveLevel := by
  intro s
  constructor
  · intro hok
    have hread := gpioRead_of_ok ((accessOk_iff s).2 hok)
    exact ⟨hread .a, hread .b, hread .btn, fun c => hread (.col c)⟩
  · exact fun hio hd => gpioRead_of_fail ((accessOk_false_iff s).2 ⟨hio, hd⟩)

/-! ### What an instruction sees of ENV -/

/-- The machine before another state of ENV. -/
def State.withEnv (s : State) (e : Env) : State := { s with env := e }

@[simp] theorem State.withEnv_cfg (s : State) (e : Env) : (s.withEnv e).cfg = s.cfg := rfl
@[simp] theorem State.withEnv_claimed (s : State) (e : Env) :
    (s.withEnv e).claimed = s.claimed := rfl
@[simp] theorem State.withEnv_seq (s : State) (e : Env) : (s.withEnv e).seq = s.seq := rfl
@[simp] theorem State.withEnv_kpCfg (s : State) (e : Env) : (s.withEnv e).kpCfg = s.kpCfg := rfl
@[simp] theorem State.withEnv_encCfg (s : State) (e : Env) : (s.withEnv e).encCfg = s.encCfg := rfl
@[simp] theorem State.withEnv_encPhase (s : State) (e : Env) :
    (s.withEnv e).encPhase = s.encPhase := rfl
@[simp] theorem accessOk_withEnv (s : State) (e : Env) : accessOk (s.withEnv e) = accessOk s := rfl
@[simp] theorem handlerMayStart_withEnv (s : State) (e : Env) :
    handlerMayStart (s.withEnv e) = handlerMayStart s := rfl

/-- ENV's state `e` differs from the present one at most in the lines of a unit that is not
configured. -/
structure SameConfiguredLines (s : State) (e : Env) : Prop where
  pressed : s.kpCfg = true → e.pressed = s.env.pressed
  lvlA    : s.encCfg = true → e.lvlA = s.env.lvlA
  lvlB    : s.encCfg = true → e.lvlB = s.env.lvlB
  lvlBtn  : s.encCfg = true → e.lvlBtn = s.env.lvlBtn

theorem sameConfiguredLines_self (s : State) : SameConfiguredLines s s.env :=
  ⟨fun _ => rfl, fun _ => rfl, fun _ => rfl, fun _ => rfl⟩

section
variable {e : Env}

theorem execKpInit_withEnv (s : State) (e : Env) :
    execKpInit (s.withEnv e) = mapNext (·.withEnv e) (execKpInit s) := by
  simp only [execKpInit, State.withEnv_cfg, State.withEnv_claimed]
  split <;> rfl

theorem execKpShutdown_withEnv (s : State) (e : Env) :
    execKpShutdown (s.withEnv e) = mapNext (·.withEnv e) (execKpShutdown s) := by
  rcases hk : s.kpCfg <;> simp only [execKpShutdown, State.withEnv_kpCfg, hk] <;> rfl

theorem scanIssue_withEnv (s : State) (e : Env) :
    scanIssue (s.withEnv e) = (scanIssue s).withEnv e := by
  rcases hk : s.kpCfg <;> simp only [scanIssue, State.withEnv_kpCfg, hk] <;> rfl

theorem scanActivate_withEnv (s : State) (e : Env) (r : Fin 4) :
    scanActivate (s.withEnv e) r = (scanActivate s r).withEnv e := by
  rcases ha : accessOk s with _ | _
  · rw [scanActivate_of_fail ha, scanActivate_of_fail (s := s.withEnv e) ha]; rfl
  · rw [scanActivate_of_ok ha, scanActivate_of_ok (s := s.withEnv e) ha]; rfl

/-- Of ENV a sample sees the pressed keys. 20_memory.md R55. -/
theorem scanSample_withEnv (h : e.pressed = s.env.pressed) (r c : Fin 4) :
    scanSample (s.withEnv e) r c = (scanSample s r c).withEnv e := by
  have hlevel : lineLevel (s.withEnv e) (.col c) = lineLevel s (.col c) := by
    simp only [lineLevel, State.withEnv, h]
  rcases ha : accessOk s with _ | _
  · rw [scanSample_of_fail ha, scanSample_of_fail (s := s.withEnv e) ha]; rfl
  · rw [scanSample_of_ok ha, scanSample_of_ok (s := s.withEnv e) ha, hlevel]; rfl

theorem scanDeactivate_withEnv (s : State) (e : Env) (r : Fin 4) :
    scanDeactivate (s.withEnv e) r = (scanDeactivate s r).withEnv e := by
  unfold scanDeactivate
  split <;> rfl

/-- A scan samples on a configured keypad only. 40_keypad.md R109. -/
theorem execKpScan_withEnv (hi : Inv s) (h : SameConfiguredLines s e) :
    execKpScan (s.withEnv e) = mapNext (·.withEnv e) (execKpScan s) := by
  simp only [execKpScan, State.withEnv_seq]
  split
  · rw [scanIssue_withEnv]; rfl
  · rw [scanActivate_withEnv]; rfl
  · next hseq => rw [scanSample_withEnv (h.pressed (hi.scanCfg (by simp [hseq])))]; rfl
  · rw [scanDeactivate_withEnv]; rfl

theorem withLock_withEnv {i : Instr} {f : State → Host.Outcome State Fault Refusal}
    (hf : f (s.withEnv e) = mapNext (·.withEnv e) (f s)) :
    withLock i (s.withEnv e) f = mapNext (·.withEnv e) (withLock i s f) := by
  by_cases hphase : s.encPhase = .idle
  · rw [withLock_of_idle hphase, withLock_of_idle (s := s.withEnv e) hphase, hf]
  · rw [withLock_of_run hphase, withLock_of_run (s := s.withEnv e) hphase]; rfl

theorem encInitEffect_withEnv (s : State) (e : Env) :
    encInitEffect (s.withEnv e) = mapNext (·.withEnv e) (encInitEffect s) := by
  simp only [encInitEffect, State.withEnv_cfg, State.withEnv_claimed]
  split <;> rfl

theorem encShutdownEffect_withEnv (s : State) (e : Env) :
    encShutdownEffect (s.withEnv e) = mapNext (·.withEnv e) (encShutdownEffect s) := by
  rcases hc : s.encCfg <;> simp only [encShutdownEffect, State.withEnv_encCfg, hc] <;> rfl

/-- ENC.GETBTN reads the button of a configured encoder only. 41_encoder.md R142. -/
theorem execEncGetbtn_withEnv (h : SameConfiguredLines s e) :
    execEncGetbtn (s.withEnv e) = mapNext (·.withEnv e) (execEncGetbtn s) := by
  rcases hc : s.encCfg
  · simp only [execEncGetbtn, State.withEnv_encCfg, hc]; rfl
  · have hlevel : lineLevel (s.withEnv e) .btn = lineLevel s .btn := h.lvlBtn hc
    have hread : gpioRead (s.withEnv e) .btn = gpioRead s .btn := by
      simp only [gpioRead, accessOk_withEnv, hlevel]
    simp only [execEncGetbtn, State.withEnv_encCfg, hc, hread, if_true]
    split <;> rfl

/-- Of ENV the handler's first step sees the level of A. 41_encoder.md R136. -/
theorem edgeSampleA_withEnv (h : e.lvlA = s.env.lvlA) :
    edgeSampleA (s.withEnv e) = (edgeSampleA s).withEnv e := by
  rcases ha : accessOk s with _ | _
  · rw [edgeSampleA_of_fail ha, edgeSampleA_of_fail (s := s.withEnv e) ha]; rfl
  · rw [edgeSampleA_of_ok ha, edgeSampleA_of_ok (s := s.withEnv e) ha, ← h]; rfl

/-- Of ENV the handler's second step sees the level of B. 41_encoder.md R137. -/
theorem edgeSampleB_withEnv (h : e.lvlB = s.env.lvlB) :
    edgeSampleB (s.withEnv e) = (edgeSampleB s).withEnv e := by
  rcases ha : accessOk s with _ | _
  · rw [edgeSampleB_of_fail ha, edgeSampleB_of_fail (s := s.withEnv e) ha]; rfl
  · rw [edgeSampleB_of_ok ha, edgeSampleB_of_ok (s := s.withEnv e) ha, ← h]; rfl

/-- The handler starts and runs on a configured encoder only. 41_encoder.md R136, R144. -/
theorem execEncEdge_withEnv (hi : Inv s) (h : SameConfiguredLines s e) :
    execEncEdge (s.withEnv e) = mapNext (·.withEnv e) (execEncEdge s) := by
  simp only [execEncEdge, State.withEnv_encPhase]
  split
  · rcases hstart : handlerMayStart s
    · simp only [handlerMayStart_withEnv, hstart]; rfl
    · have henc : s.encCfg = true := by
        simp only [handlerMayStart, Bool.and_eq_true] at hstart
        obtain ⟨⟨henc, -⟩, -⟩ := hstart
        exact henc
      simp only [handlerMayStart_withEnv, hstart, edgeSampleA_withEnv (h.lvlA henc)]; rfl
  · next hphase => rw [edgeSampleB_withEnv (h.lvlB (hi.handler (by simp [hphase])))]; rfl
  · rfl

/-- No instruction sees a line of a unit that is not configured. -/
theorem exec_withEnv (hi : Inv s) (h : SameConfiguredLines s e) (i : Instr) :
    exec i (s.withEnv e) = mapNext (·.withEnv e) (exec i s) := by
  cases i with
  | kpInit => exact execKpInit_withEnv s e
  | kpScan => exact execKpScan_withEnv hi h
  | kpShutdown => exact execKpShutdown_withEnv s e
  | encInit => exact withLock_withEnv (encInitEffect_withEnv s e)
  | encGetpos => exact withLock_withEnv rfl
  | encSetpos v => exact withLock_withEnv rfl
  | encGetbtn => exact execEncGetbtn_withEnv h
  | encShutdown => exact withLock_withEnv (encShutdownEffect_withEnv s e)
  | encEdge => exact execEncEdge_withEnv hi h

/-- Another state of ENV that an instruction does not see leaves its result as it was. -/
theorem exec_withEnv_next (hi : Inv s) (h : SameConfiguredLines s e) {i : Instr}
    (hexec : exec i s = .next u) : exec i (s.withEnv e) = .next (u.withEnv e) := by
  rw [exec_withEnv hi h, hexec, mapNext]

end

/-- No instruction writes ENV's state. 10_state.md R35. -/
theorem exec_env (hi : Inv s) {i : Instr} (h : exec i s = .next u) : u.env = s.env := by
  have hself : exec i s = .next (u.withEnv s.env) :=
    exec_withEnv_next hi (sameConfiguredLines_self s) h
  have hu : u = u.withEnv s.env := Host.Outcome.next.inj (h.symm.trans hself)
  calc u.env = (u.withEnv s.env).env := congrArg State.env hu
    _ = s.env := rfl

/-! ### Claimed pins, 20_memory.md R52, R53 -/

/-- The core drives a row of a configured keypad only. 10_state.md R27. -/
theorem Inv.kpCfg_of_driven (hi : Inv s) {r : Fin 4} (h : s.rowDrive.get r ≠ .z) :
    s.kpCfg = true := by
  by_contra hkp
  have hseq : s.seq = .idle := by_contra fun hne => hkp (hi.scanCfg hne)
  rw [hi.rows, expectedRows, hseq] at h
  simp [restRows, hkp] at h

theorem row_mem_kpPinList (p : Pins) (r : Fin 4) : (p.row.get r, PinMode.out) ∈ kpPinList p := by
  fin_cases r <;> simp [kpPinList]

theorem col_mem_kpPinList (p : Pins) (c : Fin 4) : (p.col.get c, PinMode.inp) ∈ kpPinList p := by
  fin_cases c <;> simp [kpPinList]

theorem Inv.row_claimed (hi : Inv s) (hkp : s.kpCfg = true) (r : Fin 4) :
    claimMode s.claimed (s.cfg.pins.row.get r) = some .out :=
  hi.kpClaims hkp _ (row_mem_kpPinList s.cfg.pins r)

theorem Inv.col_claimed (hi : Inv s) (hkp : s.kpCfg = true) (c : Fin 4) :
    claimMode s.claimed (s.cfg.pins.col.get c) = some .inp :=
  hi.kpClaims hkp _ (col_mem_kpPinList s.cfg.pins c)

/-- An encoder pin that is not claimed in its mode: no encoder is configured, and no level of A, B
or the button is seen. -/
theorem Inv.sameLines_of_encPin_unclaimed (hi : Inv s) {p : PinId × PinMode}
    (hp : p ∈ encPinList s.cfg.pins) (hfree : claimMode s.claimed p.1 ≠ some p.2) (a b t : Level) :
    SameConfiguredLines s { lvlA := a, lvlB := b, lvlBtn := t, pressed := s.env.pressed } :=
  have hnot : s.encCfg ≠ true := fun henc => hfree (hi.encClaims henc p hp)
  ⟨fun _ => rfl, fun h => absurd h hnot, fun h => absurd h hnot, fun h => absurd h hnot⟩

/-- Settles O22: a unit that drives or reads a line is configured, and has claimed its pins. -/
theorem coreTouchesOnlyClaimedPins : Obligations.CoreTouchesOnlyClaimedPins := by
  intro s hi
  refine ⟨fun r hr => hi.row_claimed (hi.kpCfg_of_driven hr) r, fun r c k hseq => ?_,
    fun i u h => ?_⟩
  · have hkp : s.kpCfg = true := hi.scanCfg (by simp [hseq])
    exact ⟨hi.row_claimed hkp r, hi.col_claimed hkp c⟩
  · rw [exec_env hi h]
    refine ⟨fun ⟨c, hfree⟩ p => exec_withEnv_next hi ?_ h,
      fun hfree _ => exec_withEnv_next hi ?_ h, fun hfree _ => exec_withEnv_next hi ?_ h,
      fun hfree _ => exec_withEnv_next hi ?_ h⟩
    · exact ⟨fun hkp => absurd (hi.col_claimed hkp c) hfree, fun _ => rfl, fun _ => rfl,
        fun _ => rfl⟩
    · exact hi.sameLines_of_encPin_unclaimed (p := (s.cfg.pins.a, .inEdgePu))
        (by simp [encPinList]) hfree _ _ _
    · exact hi.sameLines_of_encPin_unclaimed (p := (s.cfg.pins.b, .inEdgePu))
        (by simp [encPinList]) hfree _ _ _
    · exact hi.sameLines_of_encPin_unclaimed (p := (s.cfg.pins.btn, .inPlain))
        (by simp [encPinList]) hfree _ _ _

end Sys2Proof.Machine
end

section
/-! PROOFS. The column rule: the computed component is graph connectivity, and what a column reads
follows from it. 20_memory.md R55. -/

namespace Sys2Proof.Machine

variable {p : KeySet} {r i j c : Fin 4} {k : Quad Bool}

/-! ### Growing a set of rows -/

/-- Rows that share a column are connected by it. -/
theorem connected_of_rowsShareColumn (h : rowsShareColumn p i j = true) :
    connected p (.row i) (.row j) := by
  obtain ⟨c, hc⟩ := (any_lines _).1 h
  obtain ⟨hic, hjc⟩ := (Bool.and_eq_true_iff).1 hc
  have hto : keyEdge p (.row i) (.col c) := hic
  have hback : keyEdge p (.col c) (.row j) := hjc
  exact (Relation.ReflTransGen.single hto).tail hback

theorem rowsShareColumn_of_keys (hi : keyDown p i c = true) (hj : keyDown p j c = true) :
    rowsShareColumn p i j = true :=
  (any_lines _).2 ⟨c, by simp [hi, hj]⟩

theorem get_growRows : (growRows p k).get i = true ↔
    k.get i = true ∨ ∃ j, k.get j = true ∧ rowsShareColumn p j i = true := by
  simp [growRows]

/-- The rows of a set. -/
def rowFinset (k : Quad Bool) : Finset (Fin 4) := Finset.univ.filter (fun i => k.get i = true)

@[simp] theorem mem_rowFinset : i ∈ rowFinset k ↔ k.get i = true := by simp [rowFinset]

theorem rowFinset_injective : Function.Injective rowFinset := fun k k' h =>
  Quad.ext_get fun i => Bool.eq_iff_iff.2 (by rw [← mem_rowFinset, h, mem_rowFinset])

/-- A set that changes when it is grown gets larger. -/
theorem card_lt_of_growRows_ne (h : growRows p k ≠ k) :
    (rowFinset k).card < (rowFinset (growRows p k)).card := by
  have hsub : rowFinset k ⊆ rowFinset (growRows p k) := fun i hi =>
    mem_rowFinset.2 (get_growRows.2 (.inl (mem_rowFinset.1 hi)))
  exact Finset.card_lt_card (hsub.ssubset_of_ne fun heq => h (rowFinset_injective heq.symm))

/-- Growing three times reaches the end: a fourth step that found a row would make five. -/
theorem growRows_componentRows (p : KeySet) (r : Fin 4) :
    growRows p (componentRows p r) = componentRows p r := by
  by_contra h3
  rw [componentRows] at h3
  have h2 := mt (congrArg (growRows p)) h3
  have h1 := mt (congrArg (growRows p)) h2
  have h0 := mt (congrArg (growRows p)) h1
  have hstart : 0 < (rowFinset (Quad.tabulate (fun i => i == r))).card :=
    Finset.card_pos.2 ⟨r, by simp⟩
  have hend := Finset.card_le_univ (rowFinset (growRows p (growRows p (growRows p (growRows p
    (Quad.tabulate (fun i => i == r)))))))
  have hlt0 := card_lt_of_growRows_ne h0
  have hlt1 := card_lt_of_growRows_ne h1
  have hlt2 := card_lt_of_growRows_ne h2
  have hlt3 := card_lt_of_growRows_ne h3
  rw [Fintype.card_fin] at hend
  omega

/-! ### The component -/

theorem get_componentRows_self (p : KeySet) (r : Fin 4) : (componentRows p r).get r = true := by
  have hstart : (Quad.tabulate (fun i => i == r)).get r = true := by simp
  exact get_growRows.2 (.inl (get_growRows.2 (.inl (get_growRows.2 (.inl hstart)))))

theorem componentRows_closed (hi : (componentRows p r).get i = true)
    (hij : rowsShareColumn p i j = true) : (componentRows p r).get j = true := by
  rw [← growRows_componentRows]
  exact get_growRows.2 (.inr ⟨i, hi, hij⟩)

theorem growRows_connected (hk : ∀ i, k.get i = true → connected p (.row r) (.row i)) (i : Fin 4)
    (hi : (growRows p k).get i = true) : connected p (.row r) (.row i) := by
  rcases get_growRows.1 hi with hi | ⟨j, hj, hji⟩
  · exact hk i hi
  · exact (hk j hj).trans (connected_of_rowsShareColumn hji)

theorem connected_of_componentRows :
    ∀ i, (componentRows p r).get i = true → connected p (.row r) (.row i) := by
  refine growRows_connected (growRows_connected (growRows_connected fun i hi => ?_))
  have hir : i = r := by simpa using hi
  exact hir ▸ .refl

theorem componentHasColumn_iff : componentHasColumn p r c = true ↔
    ∃ i, (componentRows p r).get i = true ∧ keyDown p i c = true := by
  simp [componentHasColumn]

theorem componentHasOtherRow_iff : componentHasOtherRow p r = true ↔
    ∃ i, i ≠ r ∧ (componentRows p r).get i = true := by
  simp [componentHasOtherRow]

/-- The computed component, over the vertices of G. -/
def inComponent (p : KeySet) (r : Fin 4) : Vertex → Prop
  | .row i => (componentRows p r).get i = true
  | .col c => componentHasColumn p r c = true

/-- A pressed key does not lead out of the component. -/
theorem inComponent_of_keyEdge {v w : Vertex} (hv : inComponent p r v) (h : keyEdge p v w) :
    inComponent p r w := by
  match v, w with
  | .row i, .col c => exact componentHasColumn_iff.2 ⟨i, hv, h⟩
  | .col c, .row j =>
    obtain ⟨i, hi, hic⟩ := componentHasColumn_iff.1 hv
    exact componentRows_closed hi (rowsShareColumn_of_keys hic h)

theorem inComponent_of_connected {v : Vertex} (h : connected p (.row r) v) :
    inComponent p r v := by
  induction h with
  | refl => exact get_componentRows_self p r
  | tail _ hedge ih => exact inComponent_of_keyEdge ih hedge

theorem get_componentRows_iff :
    (componentRows p r).get i = true ↔ connected p (.row r) (.row i) :=
  ⟨connected_of_componentRows i, inComponent_of_connected⟩

theorem componentHasColumn_iff_connected :
    componentHasColumn p r c = true ↔ connected p (.row r) (.col c) := by
  refine ⟨fun h => ?_, inComponent_of_connected⟩
  obtain ⟨i, hi, hic⟩ := componentHasColumn_iff.1 h
  exact (connected_of_componentRows i hi).tail hic

theorem componentHasOtherRow_iff_connected :
    componentHasOtherRow p r = true ↔ ∃ i, i ≠ r ∧ connected p (.row r) (.row i) := by
  simp only [componentHasOtherRow_iff, get_componentRows_iff]

/-- Settles O23: what is in the component is connected, and no pressed key leads out of it. -/
theorem componentIsGraphConnectivity : Obligations.ComponentIsGraphConnectivity :=
  fun _ _ => ⟨fun _ => componentHasColumn_iff_connected, componentHasOtherRow_iff_connected⟩

/-! ### What a column reads -/

section
variable {cfg : Config} {d : Quad Drive} {v : Level}

theorem activeRows_eq_nil (h : ∀ i, d.get i ≠ .level v) : activeRows v d = [] := by
  simp [activeRows, h]

theorem activeRows_eq_singleton (h : ∀ i, d.get i = .level v ↔ i = r) : activeRows v d = [r] := by
  have hfilter : activeRows v d = lines.filter (fun i => i == r) :=
    List.filter_congr fun i _ => Bool.eq_iff_iff.2 (by simp [h])
  rw [hfilter]
  fin_cases r <;> rfl

/-- The column rule with row r alone active. -/
theorem columnLevel_of_active (h : ∀ i, d.get i = .level cfg.rowActive ↔ i = r) (free : Level) :
    columnLevel cfg d p free c =
      if componentHasColumn p r c then
        if componentHasOtherRow p r then free else cfg.colActive
      else !cfg.colActive := by
  simp only [columnLevel, activeRows_eq_singleton h]

end

/-- A column connected to a row that is connected to no other has its key down in that row. -/
theorem keyDown_of_connected (hc : connected p (.row r) (.col c))
    (halone : ∀ i, connected p (.row r) (.row i) → i = r) : keyDown p r c = true := by
  obtain ⟨i, hi, hic⟩ := componentHasColumn_iff.1 (componentHasColumn_iff_connected.2 hc)
  exact halone i (connected_of_componentRows i hi) ▸ hic

/-- Settles O24: the column rule's branches, with the component read as connectivity. -/
theorem columnLevelFollowsTheGraph : Obligations.ColumnLevelFollowsTheGraph := by
  intro cfg d p free c
  refine ⟨fun h => by simp only [columnLevel, activeRows_eq_nil h], fun r h => ?_⟩
  have hcol := componentHasColumn_iff_connected (p := p) (r := r) (c := c)
  have hrow := componentHasOtherRow_iff_connected (p := p) (r := r)
  rw [columnLevel_of_active h]
  refine ⟨fun hc => if_neg (hcol.not.2 hc),
    fun hc halone => ⟨keyDown_of_connected hc halone, ?_⟩, fun hc hother => ?_⟩
  · have hnone : ¬ componentHasOtherRow p r = true :=
      hrow.not.2 fun ⟨i, hne, hi⟩ => hne (halone i hi)
    rw [if_pos (hcol.2 hc), if_neg hnone]
  · rw [if_pos (hcol.2 hc), if_pos (hrow.2 hother)]

end Sys2Proof.Machine
end

section
/-! PROOFS. A handler run in progress ends. 20_memory.md R65; 70_reset_and_hazards.md R212. -/

namespace Sys2Proof.Machine

variable {s u : State}

/-- The micro-steps a handler run still has to take, at most. 41_encoder.md R137, R138. -/
def microStepsLeft : EncPhase → Nat
  | .idle => 0
  | .gotB => 1
  | .gotA => 2

/-- Each micro-step of a run in progress brings its end nearer, a failed read at once. -/
theorem execEncEdge_microStepsLeft (h : execEncEdge s = .next u) (hrun : s.encPhase ≠ .idle) :
    microStepsLeft u.encPhase < microStepsLeft s.encPhase := by
  rcases execEncEdge_cases h with ⟨hidle, -⟩ | ⟨hidle, -⟩ | ⟨hphase, rfl⟩ | ⟨hphase, rfl⟩
  · exact absurd hidle hrun
  · exact absurd hidle hrun
  · rcases ha : accessOk s with _ | _
    · simp [edgeSampleB_of_fail ha, hphase, microStepsLeft]
    · simp [edgeSampleB_of_ok ha, hphase, microStepsLeft]
  · simp [edgeCommit, hphase, microStepsLeft]

/-- No command moves the handler's phase. 41_encoder.md R144. -/
theorem exec_encPhase_cases {i : Instr} (h : exec i s = .next u) :
    u.encPhase = s.encPhase ∨ execEncEdge s = .next u := by
  rcases exec_encRegs_cases h with hr | ⟨-, hr⟩ | ⟨_, -, hr⟩ | ⟨-, hr⟩ | ⟨-, hedge⟩
  · exact .inl (congrArg EncRegs.encPhase hr)
  · exact .inl (congrArg EncRegs.encPhase hr)
  · exact .inl (congrArg EncRegs.encPhase hr)
  · exact .inl (congrArg EncRegs.encPhase hr)
  · exact .inr hedge

/-- No turn takes a run in progress back. -/
theorem takeTurn_microStepsLeft_le {t : Turn} (h : takeTurn t s = .next u)
    (hrun : s.encPhase ≠ .idle) : microStepsLeft u.encPhase ≤ microStepsLeft s.encPhase := by
  rcases takeTurn_instr h with ⟨i, d, -, hexec, -⟩ |
    ⟨-, ⟨_, rfl⟩ | ⟨_, _, -, -, rfl⟩ | ⟨_, -, rfl⟩ | ⟨-, rfl⟩⟩
  · rcases exec_encPhase_cases hexec with hphase | hedge
    · exact (congrArg microStepsLeft hphase).le
    · exact (execEncEdge_microStepsLeft hedge hrun).le
  · exact le_rfl
  · exact le_rfl
  · exact le_rfl
  · exact Nat.zero_le _

/-- A turn of EDGE counts towards the end of a run. -/
theorem afterTurn_microStepsLeft (t : Turn) (hrun : s.encPhase ≠ .idle) :
    microStepsLeft (afterTurn s t).encPhase + (if isEdge t then 1 else 0) ≤
      microStepsLeft s.encPhase := by
  obtain ⟨u, h⟩ := takeTurn_answers t s
  rw [afterTurn_of_next h]
  cases t with
  | edge d => exact execEncEdge_microStepsLeft (s := s.withDraw d) h hrun
  | issue w d => exact takeTurn_microStepsLeft_le h hrun
  | cont d => exact takeTurn_microStepsLeft_le h hrun
  | env e => exact takeTurn_microStepsLeft_le h hrun
  | reset => exact takeTurn_microStepsLeft_le h hrun

/-- A run ends once EDGE has taken as many turns as it has micro-steps left. -/
theorem exists_idle_of_microStepsLeft_le (ts : List Turn) (s : State)
    (h : microStepsLeft s.encPhase ≤ ts.countP isEdge) :
    ∃ ts', ts' <+: ts ∧ (afterTurns s ts').encPhase = .idle := by
  induction ts generalizing s with
  | nil =>
    refine ⟨[], List.nil_prefix, ?_⟩
    rcases hphase : s.encPhase <;> simp_all [microStepsLeft, afterTurns]
  | cons t rest ih =>
    by_cases hidle : s.encPhase = .idle
    · exact ⟨[], List.nil_prefix, hidle⟩
    · have hturn := afterTurn_microStepsLeft t hidle
      rw [List.countP_cons] at h
      obtain ⟨ts', hts', hend⟩ := ih (afterTurn s t) (by omega)
      exact ⟨t :: ts', List.cons_prefix_cons.2 ⟨rfl, hts'⟩, hend⟩

theorem microStepsLeft_le_two (ph : EncPhase) : microStepsLeft ph ≤ 2 := by
  cases ph <;> decide

/-- Settles O50: a run in progress has at most two micro-steps left. -/
theorem handlerRunEndsInThreeMicroSteps : Obligations.HandlerRunEndsInThreeMicroSteps :=
  fun s ts _ _ h => exists_idle_of_microStepsLeft_le ts s ((microStepsLeft_le_two _).trans h)

end Sys2Proof.Machine
end

section
/-! PROOFS. The decoder and the encoder: the round trips, the opcode map, and the DATA that is
ignored. 30_encoding.md R70 to R82. -/

namespace Sys2Proof.Machine

/-! ### The fields of a word -/

@[simp] theorem opcField_encode (n : Nat) (i : Instr) : opcField (encode n i) = opcodeOf i :=
  Laws.EncodedFields.opcField_append _ _

@[simp] theorem dataField_encode (n : Nat) (i : Instr) : dataField (encode n i) = operandBits n i :=
  Laws.EncodedFields.dataField_append _ _

/-- A word is its DATA and its OPC. 30_encoding.md R70. -/
theorem dataField_append_opcField {n : Nat} (w : Command n) : dataField w ++ opcField w = w := by
  apply BitVec.eq_of_getLsbD_eq
  intro k hk
  rw [BitVec.getLsbD_append]
  by_cases hlow : k < 8
  · simp [opcField, hlow]
  · simp only [dataField, BitVec.getLsbD_extractLsb', hlow, if_false]
    rw [show 8 + (k - 8) = k by omega]
    simp [show k - 8 < n by omega]

/-- DATA read as a signed number can be written in one command. 30_encoding.md R75. -/
theorem operandInRange_toInt {n : Nat} (x : BitVec n) : operandInRange n x.toInt = true :=
  operandInRange_iff.2 ⟨BitVec.le_toInt x, BitVec.toInt_lt⟩

/-- The two's complement of an operand in range reads back as the operand. 30_encoding.md R75. -/
theorem toInt_ofInt_of_inRange {n : Nat} {v : Int} (hn : 2 ≤ n) (h : operandInRange n v = true) :
    (BitVec.ofInt n v).toInt = v := by
  rw [BitVec.toInt_ofInt]
  exact wrapPosition_of_inRange hn h

/-! ### The whole map -/

/-- A word decodes to an instruction exactly if it has its OPC and, for ENC.SETPOS, DATA writes the
operand. 30_encoding.md R72. -/
theorem decode_eq_ok_iff {n : Nat} {w : Command n} {i : Instr} :
    decode w = .ok i ↔
      opcField w = opcodeOf i ∧ ∀ v, i = .encSetpos v → v = (dataField w).toInt := by
  constructor
  · intro h
    unfold decode at h
    split at h <;> cases h <;> simp_all [opcodeOf]
  · rintro ⟨hopc, hdata⟩
    unfold decode
    rw [hopc]
    cases i with
    | encSetpos v => simp [opcodeOf, hdata v rfl]
    | _ => rfl

/-- A word with an instruction's OPC decodes. 30_encoding.md R77. -/
theorem exists_decode_of_opcField {n : Nat} {w : Command n} {i : Instr}
    (h : opcField w = opcodeOf i) : ∃ j, decode w = .ok j ∧ j.hostCommand = i.hostCommand := by
  cases i with
  | encSetpos v =>
    exact ⟨.encSetpos (dataField w).toInt, decode_eq_ok_iff.2 ⟨h, by rintro _ ⟨⟩; rfl⟩, rfl⟩
  | _ => exact ⟨_, decode_eq_ok_iff.2 ⟨h, nofun⟩, rfl⟩

/-- Outside ENC.SETPOS only OPC decides. 30_encoding.md R71. -/
theorem decode_congr {n : Nat} {w w' : Command n} (h : opcField w = opcField w')
    (hne : opcField w ≠ 0x13#8) : decode w = decode w' := by
  unfold decode
  rw [← h]
  split
  case h_6 hopc => exact absurd hopc hne
  all_goals rfl

/-! ### The host port -/

theorem hostCommand_of_ne_encEdge {i : Instr} (h : i ≠ .encEdge) : i.hostCommand = true := by
  cases i with
  | encEdge => exact absurd rfl h
  | _ => rfl

/-- SPACE is 0 exactly in the host commands. 30_encoding.md R72, R78. -/
theorem spaceField_opcodeOf (i : Instr) : spaceField (opcodeOf i) = !i.hostCommand := by
  cases i with
  | encSetpos v => exact show spaceField 0x13#8 = !true from rfl
  | _ => rfl

/-- The host port takes the host commands of the whole map. 30_encoding.md R82. -/
theorem decodeHost_eq_ok_iff {n : Nat} {w : Command n} {i : Instr} :
    decodeHost w = .ok i ↔ i.hostCommand = true ∧ decode w = .ok i := by
  have hspace (h : decode w = .ok i) : spaceField (opcField w) = !i.hostCommand := by
    rw [(decode_eq_ok_iff.1 h).1, spaceField_opcodeOf]
  unfold decodeHost
  split
  case isTrue hinternal =>
    simp only [reduceCtorEq, false_iff, not_and]
    intro hhost hdec
    simp [hspace hdec, hhost] at hinternal
  case isFalse hhost =>
    exact ⟨fun hdec => ⟨by simpa [hspace hdec] using hhost, hdec⟩, And.right⟩

/-- The OPCs of the host space. 30_encoding.md R72. -/
theorem mem_hostOpcodes_iff {o : Opcode} :
    o ∈ [0x01#8, 0x02#8, 0x03#8, 0x11#8, 0x12#8, 0x13#8, 0x14#8, 0x15#8] ↔
      ∃ i : Instr, i.hostCommand = true ∧ o = opcodeOf i := by
  constructor
  · intro h
    simp only [List.mem_cons, List.not_mem_nil, or_false] at h
    rcases h with h | h | h | h | h | h | h | h
    · exact ⟨.kpInit, rfl, h⟩
    · exact ⟨.kpScan, rfl, h⟩
    · exact ⟨.kpShutdown, rfl, h⟩
    · exact ⟨.encInit, rfl, h⟩
    · exact ⟨.encGetpos, rfl, h⟩
    · exact ⟨.encSetpos 0, rfl, h⟩
    · exact ⟨.encGetbtn, rfl, h⟩
    · exact ⟨.encShutdown, rfl, h⟩
  · rintro ⟨i, hhost, rfl⟩
    cases i <;> simp_all [opcodeOf, Instr.hostCommand]

/-- The host port refuses a word exactly if its OPC is none of the eight. 30_encoding.md R77. -/
theorem decodeHost_error_iff {n : Nat} {w : Command n} :
    (∃ e, decodeHost w = .error e) ↔
      opcField w ∉ [0x01#8, 0x02#8, 0x03#8, 0x11#8, 0x12#8, 0x13#8, 0x14#8, 0x15#8] := by
  rw [mem_hostOpcodes_iff]
  constructor
  · rintro ⟨e, herr⟩ ⟨i, hhost, hopc⟩
    obtain ⟨j, hj, hji⟩ := exists_decode_of_opcField hopc
    have hok : decodeHost w = .ok j := decodeHost_eq_ok_iff.2 ⟨hji.trans hhost, hj⟩
    simp [herr] at hok
  · intro hnone
    rcases hdec : decodeHost w with e | i
    · exact ⟨e, rfl⟩
    · obtain ⟨hhost, hi⟩ := decodeHost_eq_ok_iff.1 hdec
      exact absurd ⟨i, hhost, (decode_eq_ok_iff.1 hi).1⟩ hnone

/-! ### The obligations -/

/-- Settles O2: the encoding holds the OPC, and DATA reads back as an operand in range. -/
theorem decodeOfEncodeIsTheInstruction : Obligations.DecodeOfEncodeIsTheInstruction := by
  intro n i hn hwf
  have hdec : decode (encode n i) = .ok i := by
    refine decode_eq_ok_iff.2 ⟨opcField_encode n i, ?_⟩
    rintro v rfl
    rw [dataField_encode]
    exact (toInt_ofInt_of_inRange hn hwf).symm
  exact ⟨hdec, fun hhost => decodeHost_eq_ok_iff.2 ⟨hhost, hdec⟩⟩

/-- Settles O1: each row of the map is `decodeHost_eq_ok_iff` for its instruction. -/
theorem hostDecoderFollowsOpcodeMap : Obligations.HostDecoderFollowsOpcodeMap := by
  intro n w
  refine ⟨?_, ?_, ?_, ?_, ?_, fun v => ?_, ?_, ?_, decodeHost_ne_encEdge, decodeHost_error_iff⟩ <;>
    simp [decodeHost_eq_ok_iff, decode_eq_ok_iff, Instr.hostCommand, opcodeOf, dataField]

/-- Settles O3: what decodes has the word's OPC, and the operand is the signed value of DATA. -/
theorem encodeOfDecodeIsTheCanonicalWord : Obligations.EncodeOfDecodeIsTheCanonicalWord := by
  intro n w i h
  obtain ⟨hopc, hdata⟩ := decode_eq_ok_iff.1 h
  cases i with
  | encSetpos v =>
    obtain rfl := hdata v rfl
    refine ⟨operandInRange_toInt (dataField w), ?_⟩
    have hword := dataField_append_opcField w
    rw [hopc] at hword
    simpa [encode, operandBits, canonicalWord, hopc, opcodeOf] using hword
  | _ => exact ⟨rfl, by simp [encode, operandBits, canonicalWord, hopc, opcodeOf]⟩

/-- Settles O4: outside ENC.SETPOS decoding looks at OPC only, and OPC alone decides legality. -/
theorem dataIgnoredOutsideSetpos : Obligations.DataIgnoredOutsideSetpos := by
  intro n w w' h
  refine ⟨fun hne => ?_, ?_⟩
  · have hdec := decode_congr h hne
    exact ⟨hdec, by simp only [decodeHost, h, hdec]⟩
  · rw [decodeHost_error_iff, decodeHost_error_iff, h]

/-- Settles O5: twelve closed words, decoded. -/
theorem writtenOutWordsDecode : Obligations.WrittenOutWordsDecode := by
  unfold Obligations.WrittenOutWordsDecode
  decide

end Sys2Proof.Machine
end

section
/-! PROOFS. The host port: a turn whose step is not enabled, a word placed for the next step, and
that each command gets exactly one response. 30_encoding.md R73, R74; log 4, log 14. -/

namespace Sys2Proof.Machine

variable {s u : State}

/-! ### Turns that are no step -/

theorem execEncEdge_of_disabled (hphase : s.encPhase = .idle)
    (hstart : handlerMayStart s = false) : execEncEdge s = .next s := by
  simp [execEncEdge, hphase, hstart]

/-- Settles O11: the turn's condition fails, so only its draw is taken. -/
theorem disabledTurnIsNoStep : Obligations.DisabledTurnIsNoStep := by
  intro s w d
  refine ⟨fun hbusy => ?_, fun hfree => ?_, fun hphase hcond => ?_⟩
  · simp [takeTurn, issueCommand, hbusy, State.withDraw]
  · simp [takeTurn, continueCommand, hfree, State.withDraw]
  · have hstart : handlerMayStart (s.withDraw d) = false := by
      simpa [handlerMayStart, hphase] using hcond
    exact execEncEdge_of_disabled (s := s.withDraw d) hphase hstart

/-! ### A placed word -/

theorem placeWord_of_encEdge {w : Nat} (h : decodeWord s.cfg.width w = .ok .encEdge) :
    s.placeWord w = { s with
      encCfg := true, edgePending := true, encPhase := .idle
      schedule := .edge s.draw :: s.schedule } := by
  simp [State.placeWord, h]

theorem placeWord_of_ne_encEdge {w : Nat} {i : Instr} (h : decodeWord s.cfg.width w = .ok i)
    (hne : i ≠ .encEdge) :
    s.placeWord w = { s with
      hostBusy := false, cmd := none, schedule := .issue w s.draw :: s.schedule } := by
  unfold State.placeWord
  split <;> simp_all

/-- Settles O9: the placed turn comes first, is enabled, and carries the draw the state holds. -/
theorem placedWordRunsNext : Obligations.PlacedWordRunsNext := by
  intro s nbits w i h
  refine ⟨fun hwidth => ?_, fun hne => ?_, fun hedge => ?_⟩
  · rw [decodeTableWord, show defaultWidth = s.cfg.width from hwidth.symm, h]
    rfl
  · have hhost : decodeHostWord s.cfg.width (w % 2 ^ nbits) = .ok i :=
      decodeHost_eq_ok_iff.2 ⟨hostCommand_of_ne_encEdge hne, h⟩
    rw [State.withFetchWord, placeWord_of_ne_encEdge h hne, step_of_cons rfl]
    exact takeTurn_issue_of_ok rfl hhost
  · subst hedge
    rw [State.withFetchWord, placeWord_of_encEdge h, step_of_cons rfl]
    rfl

/-! ### One response per command -/

/-- A response was added, and it frees the host port. 30_encoding.md R73, R74. -/
def Answered (s u : State) : Prop :=
  ∃ r, u.responses = s.responses ++ [r] ∧ u.hostBusy = false

/-- No response was added, and `i` is the command in progress. 30_encoding.md R74. -/
def Unanswered (i : Instr) (s u : State) : Prop :=
  u.responses = s.responses ∧ u.hostBusy = true ∧ u.cmd = some i

theorem answered_respond {v : State} (hv : v.responses = s.responses) (st : Status) (x : Nat) :
    Answered s (v.respond st x) :=
  ⟨⟨st, x⟩, by simp [hv], rfl⟩

theorem Answered.responses_ne (h : Answered s u) : u.responses ≠ s.responses := by
  obtain ⟨r, hr, -⟩ := h
  simp [hr]

/-- A command that takes the lock holds, or answers if its effect does. 41_encoder.md R144. -/
theorem withLock_port {i : Instr} {f : State → Host.Outcome State Fault Refusal}
    (h : withLock i s f = .next u) (hf : f s = .next u → Answered s u) :
    Answered s u ∨ Unanswered i s u := by
  rcases withLock_cases h with ⟨-, rfl⟩ | ⟨-, h⟩
  · exact .inr ⟨rfl, rfl, rfl⟩
  · exact .inl (hf h)

/-- A scan waits from its issue step to its last micro-step or its abort. 40_keypad.md R106. -/
theorem execKpScan_port (hi : Inv s) (h : execKpScan s = .next u) :
    Answered s u ∨ Unanswered .kpScan s u := by
  have running {r c : Fin 4} {k : ScanStep} (hseq : s.seq = .run r c k) :
      s.hostBusy = true ∧ s.cmd = some .kpScan := hi.scanning (by simp [hseq])
  rcases execKpScan_cases h with ⟨-, rfl⟩ | ⟨r, c, hseq, rfl⟩ | ⟨r, c, hseq, rfl⟩ |
    ⟨r, c, hseq, rfl⟩
  · unfold scanIssue
    split
    · exact .inr ⟨rfl, rfl, rfl⟩
    · exact .inl (answered_respond rfl _ _)
  · rcases ha : accessOk s
    · rw [scanActivate_of_fail ha]
      exact .inl (answered_respond rfl _ _)
    · rw [scanActivate_of_ok ha]
      exact .inr ⟨rfl, running hseq⟩
  · rcases ha : accessOk s
    · rw [scanSample_of_fail ha]
      exact .inl (answered_respond rfl _ _)
    · rw [scanSample_of_ok ha]
      exact .inr ⟨rfl, running hseq⟩
  · unfold scanDeactivate
    split
    · exact .inl (answered_respond rfl _ _)
    · exact .inr ⟨rfl, running hseq⟩

/-- A step of a host command answers it or leaves it in progress. 30_encoding.md R74. -/
theorem exec_port {i : Instr} (hi : Inv s) (hhost : i.hostCommand = true)
    (h : exec i s = .next u) : Answered s u ∨ Unanswered i s u := by
  cases i with
  | kpInit =>
    rcases execKpInit_cases h with ⟨_, -, rfl⟩ | ⟨_, -, rfl⟩ <;>
      exact .inl (answered_respond rfl _ _)
  | kpScan => exact execKpScan_port hi h
  | kpShutdown =>
    rcases execKpShutdown_cases h with ⟨-, rfl⟩ | ⟨-, rfl⟩ <;>
      exact .inl (answered_respond rfl _ _)
  | encInit =>
    refine withLock_port h fun h => ?_
    rcases encInitEffect_cases h with ⟨_, -, rfl⟩ | ⟨_, -, rfl⟩ <;> exact answered_respond rfl _ _
  | encGetpos =>
    refine withLock_port h fun h => ?_
    cases h
    exact answered_respond rfl _ _
  | encSetpos v =>
    refine withLock_port h fun h => ?_
    cases h
    exact answered_respond rfl _ _
  | encGetbtn =>
    rcases execEncGetbtn_cases h with ⟨-, rfl⟩ | ⟨-, -, rfl⟩ | ⟨-, -, rfl⟩ <;>
      exact .inl (answered_respond rfl _ _)
  | encShutdown =>
    refine withLock_port h fun h => ?_
    rcases encShutdownEffect_cases h with ⟨-, rfl⟩ | ⟨-, rfl⟩ <;> exact answered_respond rfl _ _
  | encEdge => cases hhost

/-- The command in progress is one that HOST issued. 30_encoding.md R74. -/
theorem Inv.cmd_hostCommand (hi : Inv s) {i : Instr} (hcmd : s.cmd = some i) :
    i.hostCommand = true := by
  rcases hi.unanswered i hcmd with rfl | hlock
  · rfl
  · exact hostCommand_of_ne_encEdge (by rintro rfl; cases hlock)

/-- What a turn can do at the host port: HOST's issue answers its command or leaves it in progress,
so does the accepted command's step, and every other turn but reset leaves the port. -/
theorem Inv.takeTurn_port_cases {t : Turn} (hi : Inv s) (h : takeTurn t s = .next u) :
    (isIssue t = true ∧ s.hostBusy = false ∧ (Answered s u ∨ ∃ i, Unanswered i s u)) ∨
    (isCont t = true ∧ s.hostBusy = true ∧
      (Answered s u ∨ ∃ i, s.cmd = some i ∧ Unanswered i s u)) ∨
    ((isIssue t = true → s.hostBusy = true) ∧
      u.responses = s.responses ∧ u.hostBusy = s.hostBusy ∧ u.cmd = s.cmd) ∨
    (t = .reset ∧ u = s.applyReset) := by
  rcases takeTurn_cases h with
    ⟨w, d, rfl, ⟨hbusy, rfl⟩ | ⟨hfree, _, -, rfl⟩ | ⟨hfree, i, hdec, h⟩⟩ |
    ⟨d, rfl, ⟨-, rfl⟩ | ⟨hbusy, i, hcmd, h⟩⟩ | ⟨d, rfl, h⟩ | ⟨e, rfl, rfl⟩ | hreset
  · exact .inr (.inr (.inl ⟨fun _ => hbusy, rfl, rfl, rfl⟩))
  · exact .inl ⟨rfl, hfree, .inl (answered_respond rfl _ _)⟩
  · have hhost := (decodeHost_eq_ok_iff.1 hdec).1
    exact .inl ⟨rfl, hfree, (exec_port (hi.withDraw d) hhost h).imp_right fun hw => ⟨i, hw⟩⟩
  · exact .inr (.inr (.inl ⟨nofun, rfl, rfl, rfl⟩))
  · have hhost := hi.cmd_hostCommand hcmd
    exact .inr (.inl ⟨rfl, hbusy,
      (exec_port (hi.withDraw d) hhost h).imp_right fun hw => ⟨i, hcmd, hw⟩⟩)
  · obtain ⟨-, hcmd, hbusy, hresp, -⟩ := execEncEdge_frame h
    exact .inr (.inr (.inl ⟨nofun, hresp, hbusy, hcmd⟩))
  · exact .inr (.inr (.inl ⟨nofun, rfl, rfl, rfl⟩))
  · exact .inr (.inr (.inr hreset))

/-- Settles O56: each clause is read off the four things a turn can do at the host port. -/
theorem oneResponsePerCommand : Obligations.OneResponsePerCommand := by
  refine ⟨⟨rfl, rfl, rfl, rfl, rfl, fun st => by cases st <;> decide⟩, fun t s u hi h => ?_⟩
  rcases hi.takeTurn_port_cases h with ⟨ht, hfree, hport⟩ | ⟨ht, hbusy, hport⟩ |
    ⟨ht, hresp, hbusy, hcmd⟩ | ⟨rfl, rfl⟩
  · refine ⟨?_, fun _ _ hsame => ?_, fun hbusy => ?_, fun _ hno => ?_⟩
    · rcases hport with ⟨r, hr, hdone⟩ | ⟨i, hsame, -⟩
      · exact .inr ⟨r, hr, hdone, .inl ⟨ht, hfree⟩⟩
      · exact .inl hsame
    · rcases hport with hans | ⟨i, -, hbusy, -⟩
      · exact absurd hsame hans.responses_ne
      · exact hbusy
    · simp [hfree] at hbusy
    · simp [ht] at hno
  · refine ⟨?_, fun _ hfree => ?_, fun _ _ hsame => ?_, fun hfree => ?_⟩
    · rcases hport with ⟨r, hr, hdone⟩ | ⟨i, -, hsame, -⟩
      · exact .inr ⟨r, hr, hdone, .inr ⟨ht, hbusy⟩⟩
      · exact .inl hsame
    · simp [hbusy] at hfree
    · rcases hport with hans | ⟨i, hcmd, -, hwait, hcmd'⟩
      · exact absurd hsame hans.responses_ne
      · exact ⟨hwait, hcmd'.trans hcmd.symm⟩
    · simp [hbusy] at hfree
  · refine ⟨.inl hresp, fun hissue hfree => ?_, fun hb _ _ => ⟨hbusy.trans hb, hcmd⟩,
      fun hfree _ => ⟨hresp, hbusy.trans hfree⟩⟩
    simp [ht hissue] at hfree
  · exact ⟨.inl rfl, nofun, fun _ hno => absurd rfl hno, fun _ _ => ⟨rfl, rfl⟩⟩

end Sys2Proof.Machine
end

section
/-! PROOFS. The assembler: the words of a line, the numbers that digits write, and what a line
assembles to. 30_encoding.md R80, R81. -/

namespace Sys2Proof.Machine

variable {n : Nat}

/-! ### The words of a line -/

/-- A character that neither ends a word nor starts a comment. 30_encoding.md R80. -/
def isWordChar (c : Char) : Bool := !isBlank c && decide (c ≠ ';')

/-- Text that is one word of a line. 30_encoding.md R80. -/
def IsWord (w : List Char) : Prop := w ≠ [] ∧ w.all isWordChar = true

theorem lineWords_append {w : List Char} (hw : ∀ c ∈ w, isBlank c = false) (cur rest : List Char) :
    lineWords cur (w ++ rest) = lineWords (w.reverse ++ cur) rest := by
  induction w generalizing cur with
  | nil => rfl
  | cons c w ih =>
    obtain ⟨hc, hw⟩ := List.forall_mem_cons.1 hw
    simp [lineWords, hc, ih hw]

section
variable {w v : List Char} (hw : IsWord w)
include hw

theorem IsWord.chars : ∀ c ∈ w, isBlank c = false ∧ c ≠ ';' := fun c hc => by
  simpa [isWordChar] using List.all_eq_true.1 hw.2 c hc

theorem IsWord.not_blank : ∀ c ∈ w, isBlank c = false := fun c hc => (hw.chars c hc).1

theorem IsWord.lineWords_self : lineWords [] w = [w] := by
  have h := lineWords_append hw.not_blank [] []
  simpa [lineWords, hw.1] using h

theorem IsWord.lineWords_space (rest : List Char) :
    lineWords [] (w ++ ' ' :: rest) = w :: lineWords [] rest := by
  rw [lineWords_append hw.not_blank]
  simp [lineWords, isBlank, hw.1]

theorem IsWord.stripComment_self : stripComment w = w :=
  List.takeWhile_eq_self_iff.2 fun c hc => by simpa using (hw.chars c hc).2

theorem IsWord.stripComment_space (hv : IsWord v) :
    stripComment (w ++ ' ' :: v) = w ++ ' ' :: v := by
  refine List.takeWhile_eq_self_iff.2 fun c hc => ?_
  rcases List.mem_append.1 hc with hc | hc
  · simpa using (hw.chars c hc).2
  · rcases List.mem_cons.1 hc with rfl | hc
    · rfl
    · simpa using (hv.chars c hc).2

/-- A line of one word assembles to what its mnemonic writes. 30_encoding.md R80. -/
theorem IsWord.assembleLine_mnemonic {i : Instr} (h : plainMnemonic w = some i) :
    assembleLine n w = .command (encode n i) := by
  simp [assembleLine, hw.stripComment_self, hw.lineWords_self, parseWords, h]

/-- The words of ENC.SETPOS's line. 30_encoding.md R80. -/
theorem IsWord.lineWords_setposLine :
    lineWords [] (stripComment (setposLine w)) = [setposMnemonic, w] := by
  have hm : IsWord setposMnemonic := ⟨by decide, by decide⟩
  rw [setposLine, List.append_assoc, List.singleton_append, hm.stripComment_space hw,
    hm.lineWords_space, hw.lineWords_self]

theorem IsWord.assembleLine_setpos_of_some {x : Int} (h : parseImmediate n w = some x) :
    assembleLine n (setposLine w) =
      if operandInRange n x then .command (encode n (.encSetpos x)) else .refused := by
  simp only [assembleLine, hw.lineWords_setposLine, parseWords, h, if_true]
  cases operandInRange n x <;> rfl

theorem IsWord.assembleLine_setpos_of_none (h : parseImmediate n w = none) :
    assembleLine n (setposLine w) = .refused := by
  simp [assembleLine, hw.lineWords_setposLine, parseWords, h]

end

/-! ### Written numbers -/

theorem digitsValue_append_singleton (base : Nat) (ds : List Nat) (d : Nat) :
    digitsValue base (ds ++ [d]) = base * digitsValue base ds + d := by
  simp [digitsValue]

section
variable {α : Type} {base : Nat} {digit : Char → Option Nat} {char : α → Char} {value : α → Nat}
  (hdigit : ∀ d, digit (char d) = some (value d))
include hdigit

theorem numberFrom_map_char (ds : List α) (acc : Nat) :
    numberFrom base digit acc (ds.map char) =
      some ((ds.map value).foldl (fun acc d => base * acc + d) acc) := by
  induction ds generalizing acc with
  | nil => rfl
  | cons d ds ih => simp [numberFrom, hdigit, ih]

/-- Digits are read as the number they write. 30_encoding.md R80. -/
theorem number_map_char {ds : List α} (hds : ds ≠ []) :
    number base digit (ds.map char) = some (digitsValue base (ds.map value)) := by
  simp [number, hds, numberFrom_map_char hdigit, digitsValue]

end

/-- The decimal digits as text. -/
def decText (ds : List (Fin 10)) : List Char := ds.map fun d => decChar d.val

theorem decDigit_decChar : ∀ d : Fin 10, decDigit (decChar d.val) = some d.val := by decide

theorem isWordChar_decChar : ∀ d : Fin 10, isWordChar (decChar d.val) = true := by decide

theorem hexDigit_hexChar : ∀ d : BitVec 4, hexDigit (hexChar d) = some d.toNat := by decide

theorem isWordChar_hexChar : ∀ d : BitVec 4, isWordChar (hexChar d) = true := by decide

theorem isWord_decText {ds : List (Fin 10)} (hds : ds ≠ []) : IsWord (decText ds) :=
  ⟨by simpa [decText] using hds, by simp [decText, isWordChar_decChar]⟩

/-- A sign, or `0x`, put before a word leaves a word. -/
theorem IsWord.cons {w : List Char} (hw : IsWord w) {c : Char} (hc : isWordChar c = true) :
    IsWord (c :: w) :=
  ⟨List.cons_ne_nil c w, by simp [hc, hw.2]⟩

theorem isWord_neg_decText {ds : List (Fin 10)} (hds : ds ≠ []) : IsWord ('-' :: decText ds) :=
  (isWord_decText hds).cons (by decide)

theorem isWord_hex {ds : List (BitVec 4)} (hds : ds ≠ []) :
    IsWord ('0' :: 'x' :: ds.map hexChar) := by
  have hdigits : IsWord (ds.map hexChar) :=
    ⟨by simpa using hds, by simp [isWordChar_hexChar]⟩
  exact (hdigits.cons (by decide)).cons (by decide)

theorem number_decText {ds : List (Fin 10)} (hds : ds ≠ []) :
    number 10 decDigit (decText ds) = some (digitsValue 10 (ds.map fun d => d.val)) :=
  number_map_char decDigit_decChar hds

theorem parseImmediate_decText {ds : List (Fin 10)} (hds : ds ≠ []) :
    parseImmediate n (decText ds) = some (digitsValue 10 (ds.map fun d => d.val) : Int) := by
  have hchar : ∀ c ∈ decText ds, (decDigit c).isSome = true :=
    List.forall_mem_map.2 fun d _ => by simp [decDigit_decChar d]
  have hnum := number_decText hds
  generalize decText ds = word at hchar hnum
  unfold parseImmediate
  split
  · exact absurd (hchar 'x' (by simp)) (by decide)
  · exact absurd (hchar '-' (by simp)) (by decide)
  · rw [hnum]; rfl

theorem parseImmediate_neg_decText {ds : List (Fin 10)} (hds : ds ≠ []) :
    parseImmediate n ('-' :: decText ds) =
      some (-(digitsValue 10 (ds.map fun d => d.val) : Int)) := by
  simp [parseImmediate, number_decText hds]

/-- `0x` and hex digits are a raw bit pattern, or too many. 30_encoding.md R80. -/
theorem parseImmediate_hex {ds : List (BitVec 4)} (hds : ds ≠ []) :
    parseImmediate n ('0' :: 'x' :: ds.map hexChar) =
      if ds.length ≤ n / 4
        then some (BitVec.ofNat n (digitsValue 16 (ds.map fun d => d.toNat))).toInt else none := by
  simp [parseImmediate, number_map_char hexDigit_hexChar hds]

/-- The text of a number is its decimal digits. -/
theorem decimalFrom_eq (fuel k : Nat) (hk : k < fuel) :
    ∃ ds : List (Fin 10), ds ≠ [] ∧ digitsValue 10 (ds.map fun d => d.val) = k ∧
      ∀ acc, decimalFrom fuel k acc = decText ds ++ acc := by
  induction fuel generalizing k with
  | zero => omega
  | succ fuel ih =>
    by_cases hlt : k < 10
    · exact ⟨[⟨k, hlt⟩], by simp, by simp [digitsValue], by simp [decimalFrom, hlt, decText]⟩
    · obtain ⟨ds, -, hval, htext⟩ := ih (k / 10) (by omega)
      have hlast : k % 10 < 10 := by omega
      refine ⟨ds ++ [⟨k % 10, hlast⟩], by simp, ?_, fun acc => ?_⟩
      · rw [List.map_append, List.map_singleton, digitsValue_append_singleton, hval]
        exact Nat.div_add_mod k 10
      · simp [decimalFrom, hlt, htext, decText]

/-- A signed decimal is digits with the sign before them, and reads back as its number.
30_encoding.md R80. -/
theorem decimal_readable (x : Int) :
    IsWord (decimal x) ∧ parseImmediate n (decimal x) = some x := by
  cases x with
  | ofNat k =>
    obtain ⟨ds, hds, hval, htext⟩ := decimalFrom_eq (k + 1) k (by omega)
    have hdec : decimal (.ofNat k) = decText ds := by simpa [decimal] using htext []
    rw [hdec, parseImmediate_decText hds, hval]
    exact ⟨isWord_decText hds, rfl⟩
  | negSucc k =>
    obtain ⟨ds, hds, hval, htext⟩ := decimalFrom_eq (k + 2) (k + 1) (by omega)
    have hdec : decimal (.negSucc k) = '-' :: decText ds := by simpa [decimal] using htext []
    rw [hdec, parseImmediate_neg_decText hds, hval]
    exact ⟨isWord_neg_decText hds, rfl⟩

/-! ### Lines -/

/-- The line of a command without operand is its mnemonic. 30_encoding.md R80. -/
theorem plainMnemonic_lineOf {i : Instr} {l : List Char} (hl : lineOf i = some l)
    (hne : ∀ v, i ≠ .encSetpos v) : IsWord l ∧ plainMnemonic l = some i := by
  cases i with
  | encSetpos v => exact absurd rfl (hne v)
  | encEdge => cases hl
  | _ => cases hl; exact ⟨⟨by decide, by decide⟩, by decide⟩

theorem assembleLine_lineOf {i : Instr} {l : List Char} (hwf : i.wellFormed n = true)
    (hl : lineOf i = some l) : assembleLine n l = .command (encode n i) := by
  by_cases hset : ∃ v, i = .encSetpos v
  · obtain ⟨v, rfl⟩ := hset
    cases hl
    obtain ⟨hword, hparse⟩ := decimal_readable (n := n) v
    rw [hword.assembleLine_setpos_of_some hparse]
    exact if_pos hwf
  · obtain ⟨hword, hmn⟩ := plainMnemonic_lineOf hl (not_exists.1 hset)
    exact hword.assembleLine_mnemonic hmn

/-- ENC.SETPOS with `0x` writes the bit pattern into DATA. 30_encoding.md R80. -/
theorem assembleLine_setpos_hex {ds : List (BitVec 4)} (hds : ds ≠ []) :
    assembleLine n (setposLine ('0' :: 'x' :: ds.map hexChar)) =
      if ds.length ≤ n / 4
        then .command (BitVec.ofNat n (digitsValue 16 (ds.map fun d => d.toNat)) ++ 0x13#8)
        else .refused := by
  have hparse := parseImmediate_hex (n := n) hds
  split at hparse
  · rw [(isWord_hex hds).assembleLine_setpos_of_some hparse, if_pos (operandInRange_toInt _),
      if_pos ‹_›]
    simp only [encode, operandBits, opcodeOf, BitVec.ofInt_toInt]
  · rw [(isWord_hex hds).assembleLine_setpos_of_none hparse, if_neg ‹_›]

theorem lineOf_eq_none_iff {i : Instr} : lineOf i = none ↔ i = .encEdge := by
  cases i <;> simp [lineOf]

theorem plainMnemonic_wellFormed {w : List Char} {i : Instr} (h : plainMnemonic w = some i) :
    i.hostCommand = true ∧ i.wellFormed n = true := by
  unfold plainMnemonic at h
  split_ifs at h <;> cases h <;>
    simp [Instr.hostCommand, Instr.wellFormed, operandInRange_zero]

theorem parseWords_wellFormed {ws : List (List Char)} {i : Instr} (h : parseWords n ws = some i) :
    i.hostCommand = true ∧ i.wellFormed n = true := by
  unfold parseWords at h
  split at h
  · exact plainMnemonic_wellFormed h
  · split at h
    · split at h
      · split at h
        · cases h; exact ⟨rfl, ‹_›⟩
        · cases h
      · cases h
    · cases h
  · cases h

theorem assembleLine_eq_command {line : List Char} {w : Command n}
    (h : assembleLine n line = .command w) :
    ∃ i, parseWords n (lineWords [] (stripComment line)) = some i ∧ w = encode n i := by
  unfold assembleLine at h
  split at h
  · cases h
  · split at h
    · cases h
      exact ⟨_, ‹_›, rfl⟩
    · cases h

/-- Settles O7: the line is one word, and its mnemonic writes ENC.SETPOS 0. -/
theorem encZeroIsSetposZero : Obligations.EncZeroIsSetposZero := by
  refine ⟨fun n => ?_, by decide⟩
  have hword : IsWord ['E', 'N', 'C', '.', 'Z', 'E', 'R', 'O'] := ⟨by decide, by decide⟩
  exact hword.assembleLine_mnemonic (by decide)

/-- Settles O6: lines split into their words, digits read back as the number they write, and
`parseWords` yields well-formed host commands only. -/
theorem assemblerWritesTheEncoding : Obligations.AssemblerWritesTheEncoding := by
  intro n _
  refine ⟨fun i l hwf hl => assembleLine_lineOf hwf hl, fun i => lineOf_eq_none_iff,
    fun ds hds => ⟨?_, ?_⟩, fun ds hds => ?_, fun line w h => ?_⟩
  · exact (isWord_decText hds).assembleLine_setpos_of_some (parseImmediate_decText hds)
  · exact (isWord_neg_decText hds).assembleLine_setpos_of_some (parseImmediate_neg_decText hds)
  · exact assembleLine_setpos_hex hds
  · obtain ⟨i, hparse, rfl⟩ := assembleLine_eq_command h
    obtain ⟨hhost, hwf⟩ := parseWords_wellFormed hparse
    exact ⟨mem_hostOpcodes_iff.2 ⟨i, hhost, opcField_encode n i⟩, i, hhost, hwf, rfl⟩

end Sys2Proof.Machine
end

section
/-! PROOFS. Ghosting: two rows are joined by a column with pressed keys in both, and by nothing
else. 20_memory.md R55; 40_keypad.md R112. -/

namespace Sys2Proof.Machine

variable {p : KeySet} {r i j c : Fin 4} {cfg : Config} {d : Quad Drive}

/-- With no shared column a row shares a column with itself at most. -/
theorem eq_of_rowsShareColumn (hp : noSharedColumn p) (h : rowsShareColumn p i j = true) :
    i = j := by
  obtain ⟨c, hc⟩ := (any_lines _).1 h
  obtain ⟨hi, hj⟩ := Bool.and_eq_true_iff.1 hc
  exact hp i j c hi hj

/-- With no shared column there is no row to add. -/
theorem growRows_of_noSharedColumn (hp : noSharedColumn p) (k : Quad Bool) : growRows p k = k := by
  refine Quad.ext_get fun i => Bool.eq_iff_iff.2 (get_growRows.trans ⟨?_, Or.inl⟩)
  rintro (hi | ⟨j, hj, hji⟩)
  · exact hi
  · exact eq_of_rowsShareColumn hp hji ▸ hj

/-- With no shared column each row is alone in its component. -/
theorem get_componentRows_of_noSharedColumn (hp : noSharedColumn p) :
    (componentRows p r).get i = true ↔ i = r := by
  simp [componentRows, growRows_of_noSharedColumn hp]

/-- Settles O25: a shared column connects its rows, and without one each component has one row. -/
theorem ghostingNeedsASharedColumn : Obligations.GhostingNeedsASharedColumn := by
  refine fun p => ⟨fun h i j c hi hj => ?_, fun hp i j hij => ?_⟩
  · exact h i j (connected_of_rowsShareColumn (rowsShareColumn_of_keys hi hj))
  · exact ((get_componentRows_of_noSharedColumn hp).1 (get_componentRows_iff.2 hij)).symm

/-- With no shared column, and row r alone active, a column reads `COL_ACTIVE` exactly if its key
in row r is pressed. 40_keypad.md R112. -/
theorem columnLevel_eq_colActive_iff (hp : noSharedColumn p)
    (h : ∀ i, d.get i = .level cfg.rowActive ↔ i = r) (free : Level) :
    columnLevel cfg d p free c = cfg.colActive ↔ keyDown p r c = true := by
  have hcol : componentHasColumn p r c = true ↔ keyDown p r c = true := by
    simp [componentHasColumn_iff, get_componentRows_of_noSharedColumn hp]
  have halone : ¬ componentHasOtherRow p r = true := by
    simp [componentHasOtherRow_iff, get_componentRows_of_noSharedColumn hp]
  rw [columnLevel_of_active h, if_neg halone]
  split <;> simp_all

end Sys2Proof.Machine
end

section
/-! PROOFS. KEYS values: their bits, the keys of a set, and the labels they stand for.
40_keypad.md R100, R102. -/

namespace Sys2Proof.Machine

/-! ### The bits of a KEYS value -/

@[simp] theorem keyBit_inj {r c r' c' : Fin 4} : keyBit r c = keyBit r' c' ↔ r = r' ∧ c = c' := by
  simp only [keyBit, Fin.ext_iff]
  omega

theorem keyBit_lt (r c : Fin 4) : keyBit r c < 16 := by
  simp only [keyBit]
  omega

/-- Each of the 16 bits is the bit of a key. -/
theorem exists_keyBit {n : Nat} (hn : n < 16) : ∃ r c, keyBit r c = n :=
  ⟨⟨n / 4, by omega⟩, ⟨n % 4, by omega⟩, Nat.div_add_mod n 4⟩

/-- KEYS values with the same keys are equal. -/
theorem keys_ext {k k' : Keys} (h : ∀ r c, k.getLsbD (keyBit r c) = k'.getLsbD (keyBit r c)) :
    k = k' := by
  refine BitVec.eq_of_getLsbD_eq fun n hn => ?_
  obtain ⟨r, c, rfl⟩ := exists_keyBit hn
  exact h r c

theorem getLsbD_setKey (k : Keys) (r c : Fin 4) (n : Nat) :
    (setKey k r c).getLsbD n = (k.getLsbD n || decide (keyBit r c = n)) := by
  have hlt := keyBit_lt r c
  simp only [setKey, BitVec.getLsbD_or, BitVec.getLsbD_shiftLeft, BitVec.getLsbD_one]
  grind

theorem getLsbD_keysBelow (k : Keys) (m n : Nat) :
    (keysBelow k m).getLsbD n = (k.getLsbD n && decide (n < m)) := by
  simp only [keysBelow, BitVec.getLsbD_and, BitVec.getLsbD_ofNat, Nat.testBit_two_pow_sub_one]
  grind

/-- A fold whose steps each add a bit adds all of them. -/
theorem getLsbD_foldl {α : Type} {f : Keys → α → Keys} {n : Nat} {b : α → Bool}
    (hf : ∀ k x, (f k x).getLsbD n = (k.getLsbD n || b x)) (l : List α) (k : Keys) :
    (l.foldl f k).getLsbD n = (k.getLsbD n || l.any b) := by
  induction l generalizing k with
  | nil => simp
  | cons x l ih => simp [ih, hf, Bool.or_assoc]

/-- The KEYS value of a set has the bits of the set's keys. -/
@[simp] theorem getLsbD_keysOf (p : KeySet) (r c : Fin 4) :
    (keysOf p).getLsbD (keyBit r c) = keyDown p r c := by
  have hkey (k : Keys) (r' c' : Fin 4) :
      (if keyDown p r' c' then setKey k r' c' else k).getLsbD (keyBit r c) =
        (k.getLsbD (keyBit r c) || (keyDown p r' c' && decide (r' = r ∧ c' = c))) := by
    split <;> simp_all [getLsbD_setKey]
  have hrow (k : Keys) (r' : Fin 4) := getLsbD_foldl (hkey · r') lines k
  have hall := getLsbD_foldl hrow lines 0
  refine hall.trans (Bool.eq_iff_iff.2 ?_)
  simp

/-! ### Samples -/

/-- Before the first sample there are no keys. -/
@[simp] theorem keysBelow_zero (k : Keys) : keysBelow k 0 = 0#16 :=
  keys_ext fun _ _ => by simp [getLsbD_keysBelow]

/-- The last sample completes the value. -/
@[simp] theorem keysBelow_sixteen (k : Keys) : keysBelow k 16 = k :=
  keys_ext fun r c => by rw [getLsbD_keysBelow, decide_eq_true (keyBit_lt r c), Bool.and_true]

/-- A sample adds its key if the key is down. -/
theorem keysBelow_succ (k : Keys) (r c : Fin 4) :
    keysBelow k (keyBit r c + 1) =
      if k.getLsbD (keyBit r c) then setKey (keysBelow k (keyBit r c)) r c
      else keysBelow k (keyBit r c) := by
  refine keys_ext fun r' c' => ?_
  by_cases hk : k.getLsbD (keyBit r c)
  · rw [if_pos hk]
    simp only [getLsbD_setKey, getLsbD_keysBelow]
    grind
  · rw [if_neg hk]
    simp only [getLsbD_keysBelow]
    grind

/-! ### Labels -/

/-- A grid's cells, in scan order. -/
theorem gridCells_eq (km : KeyMap) :
    gridCells km.grid = places.map (fun x => keyLabel km x.1 x.2) := rfl

@[simp] theorem mem_places (x : Fin 4 × Fin 4) : x ∈ places := by simp [places]

/-- A key map names no label twice. 40_keypad.md R100. -/
theorem keyLabel_inj {km : KeyMap} {r c r' c' : Fin 4} :
    keyLabel km r c = keyLabel km r' c' ↔ r = r' ∧ c = c' := by
  have hnodup : (gridCells km.grid).Nodup :=
    of_decide_eq_true (Bool.and_eq_true_iff.1 km.bijective).1
  rw [gridCells_eq] at hnodup
  refine ⟨fun h => ?_, fun ⟨hr, hc⟩ => by rw [hr, hc]⟩
  exact Prod.mk.inj (List.inj_on_of_nodup_map hnodup (mem_places (r, c)) (mem_places (r', c')) h)

/-- A key map names every label. 40_keypad.md R100. -/
theorem exists_keyLabel (km : KeyMap) (l : KeyLabel) : ∃ r c, keyLabel km r c = l := by
  have hall := List.all_eq_true.1 (Bool.and_eq_true_iff.1 km.bijective).2
  have hmem : l ∈ gridCells km.grid := List.contains_iff_mem.1 (hall l (by cases l <;> decide))
  obtain ⟨⟨r, c⟩, -, hl⟩ := List.mem_map.1 (gridCells_eq km ▸ hmem)
  exact ⟨r, c, hl⟩

/-- The labels of a KEYS value are those of its keys. 40_keypad.md R102. -/
theorem keyLabel_mem_labels {km : KeyMap} {k : Keys} {r c : Fin 4} :
    keyLabel km r c ∈ labels km k ↔ k.getLsbD (keyBit r c) = true := by
  simp [labels, keyLabel_inj]

/-- Settles O36: the labels read key by key; the value of a list of labels is that of its keys. -/
theorem labelsNameEverySetOnce : Obligations.LabelsNameEverySetOnce := by
  intro km
  refine ⟨fun k r c => keyLabel_mem_labels, fun k k' h => keys_ext fun r c => ?_, fun ls => ?_⟩
  · exact Bool.eq_iff_iff.2 (keyLabel_mem_labels.symm.trans ((h _).trans keyLabel_mem_labels))
  · refine ⟨keysOf (Quad.tabulate fun r => Quad.tabulate fun c => decide (keyLabel km r c ∈ ls)),
      fun l => ?_⟩
    obtain ⟨r, c, rfl⟩ := exists_keyLabel km l
    simp [keyLabel_mem_labels, keyDown]

end Sys2Proof.Machine
end

section
/-! PROOFS. KP.INIT and KP.SHUTDOWN: their pins, and their exact next states. 40_keypad.md R103,
R104, R113. -/

namespace Sys2Proof.Machine

variable {s u : State}

/-- The keypad's pins are its rows and its columns. 40_keypad.md R103. -/
theorem notMem_kpPinList_of_ne {p : Pins} {q : PinId} (hrow : ∀ r, q ≠ p.row.get r)
    (hcol : ∀ c, q ≠ p.col.get c) : q ∉ (kpPinList p).map Prod.fst := by
  simp [kpPinList, hrow, hcol]

theorem claimAll_ok_of_not_claimMustFail {c : Config} {m : Claims} {l : List (PinId × PinMode)}
    (h : ¬ claimMustFail c m l) : ∃ m', claimAll c m l = .ok m' := by
  rcases hclaim : claimAll c m l with f | m'
  · exact absurd (not_claimMustFail_iff.1 h) (claimAll_error_iff.1 ⟨f, hclaim⟩)
  · exact ⟨m', rfl⟩

theorem claimAll_error_of_claimMustFail {c : Config} {m : Claims} {l : List (PinId × PinMode)}
    (h : claimMustFail c m l) : ∃ f, claimAll c m l = .error f :=
  claimAll_error_iff.2 (mt not_claimMustFail_iff.2 (not_not.2 h))

theorem execKpInit_of_error {f : ClaimFailure}
    (h : claimAll s.cfg s.claimed (kpPinList s.cfg.pins) = .error f) :
    execKpInit s = .next (s.raise .hwInitError) := by
  simp only [execKpInit, h]

theorem execKpInit_of_ok {m : Claims}
    (h : claimAll s.cfg s.claimed (kpPinList s.cfg.pins) = .ok m) :
    execKpInit s = .next (State.respond { s with
      claimed := m, rowDrive := Quad.all4 (.level (!s.cfg.rowActive)), kpCfg := true } .ok 0) := by
  simp only [execKpInit, h]

/-- Settles O26: KP.INIT follows `ClaimAll`, which fails on R54's causes only. -/
theorem kpInitClaimsAndConfigures : Obligations.KpInitClaimsAndConfigures := by
  refine ⟨fun n => rfl, fun s => ⟨fun hfail => ?_, fun hfree => ?_⟩⟩
  · obtain ⟨f, hf⟩ := claimAll_error_of_claimMustFail hfail
    exact execKpInit_of_error hf
  · obtain ⟨m, hm⟩ := claimAll_ok_of_not_claimMustFail hfree
    refine ⟨m, execKpInit_of_ok hm, fun r => claimAll_claims hm _ (row_mem_kpPinList s.cfg.pins r),
      fun c => claimAll_claims hm _ (col_mem_kpPinList s.cfg.pins c),
      fun p hrow hcol => claimAll_of_notMem hm (notMem_kpPinList_of_ne hrow hcol)⟩

/-- A release unclaims each pin of its list. 20_memory.md R54. -/
theorem claimMode_releaseAll_of_mem {m : Claims} {l : List (PinId × PinMode)}
    {e : PinId × PinMode} (h : e ∈ l) : claimMode (releaseAll m l) e.1 = none := by
  rw [claimMode_releaseAll, if_pos (List.mem_map_of_mem h)]

theorem execKpShutdown_of_configured (h : s.kpCfg = true) :
    execKpShutdown s = .next (State.respond { s with
      rowDrive := Quad.all4 .z, claimed := releaseAll s.claimed (kpPinList s.cfg.pins)
      kpCfg := false } .ok 0) := if_pos h

theorem execKpShutdown_of_unconfigured (h : s.kpCfg = false) :
    execKpShutdown s = .next (s.raise .notInitialized) := if_neg (Bool.eq_false_iff.1 h)

/-- Settles O30: a configured keypad releases its pins, read pin by pin. -/
theorem kpShutdownReleases : Obligations.KpShutdownReleases := by
  refine ⟨fun n => rfl, fun s => ⟨fun hkp => ?_, execKpShutdown_of_unconfigured⟩⟩
  · refine ⟨releaseAll s.claimed (kpPinList s.cfg.pins), execKpShutdown_of_configured hkp,
      fun r => claimMode_releaseAll_of_mem (row_mem_kpPinList s.cfg.pins r),
      fun c => claimMode_releaseAll_of_mem (col_mem_kpPinList s.cfg.pins c),
      fun p hrow hcol => ?_⟩
    rw [claimMode_releaseAll, if_neg (notMem_kpPinList_of_ne hrow hcol)]

end Sys2Proof.Machine
end

section
/-! PROOFS. KP.SCAN step by step: the step that `seq` selects, the abort, and what a micro-step
depends on. 40_keypad.md R105 to R110. -/

namespace Sys2Proof.Machine

variable {s s' u u' : State} {r c : Fin 4}

/-! ### The step that `seq` selects, 40_keypad.md R106 -/

theorem execKpScan_idle (h : s.seq = .idle) : execKpScan s = .next (scanIssue s) := by
  simp only [execKpScan, h]

theorem execKpScan_act (h : s.seq = .run r c .act) :
    execKpScan s = .next (scanActivate s r) := by
  simp only [execKpScan, h]

theorem execKpScan_sample (h : s.seq = .run r c .sample) :
    execKpScan s = .next (scanSample s r c) := by
  simp only [execKpScan, h]

theorem execKpScan_deact (h : s.seq = .run r c .deact) :
    execKpScan s = .next (scanDeactivate s r) := by
  simp only [execKpScan, h]

theorem scanIssue_of_configured (h : s.kpCfg = true) :
    scanIssue s = State.accept { s with keysAcc := 0, seq := .run 0 0 .act } .kpScan := if_pos h

theorem scanIssue_of_unconfigured (h : s.kpCfg = false) :
    scanIssue s = s.raise .notInitialized := if_neg (Bool.eq_false_iff.1 h)

theorem scanDeactivate_of_ne_three (h : r ≠ 3) :
    scanDeactivate s r = { s.deactivateRow r with seq := .run (r + 1) 0 .act } := if_neg h

theorem scanDeactivate_three :
    scanDeactivate s 3 =
      State.respond { s.deactivateRow 3 with seq := .idle } .ok (keysData s.keysAcc) := if_pos rfl

/-- Settles O27: the issue step with its condition on `kp_cfg` decided. -/
theorem scanIssueStep : Obligations.ScanIssueStep := by
  refine ⟨fun n => rfl, fun s hidle => ⟨fun hkp => ?_, fun hkp => ?_⟩⟩
  · exact (execKpScan_idle hidle).trans (congrArg _ (scanIssue_of_configured hkp))
  · exact (execKpScan_idle hidle).trans (congrArg _ (scanIssue_of_unconfigured hkp))

/-- Settles O28: each micro-step with its pin access, if it has a fallible one, succeeding. -/
theorem scanMicroSteps : Obligations.ScanMicroSteps := by
  intro s r c
  refine ⟨fun hseq hok => ?_, fun hseq hok => ?_, fun hseq hr => ?_, fun hseq hr => ?_⟩
  · exact (execKpScan_act hseq).trans (congrArg _ (scanActivate_of_ok ((accessOk_iff s).2 hok) r))
  · exact (execKpScan_sample hseq).trans
      (congrArg _ (scanSample_of_ok ((accessOk_iff s).2 hok) r c))
  · exact (execKpScan_deact hseq).trans (congrArg _ (scanDeactivate_of_ne_three hr))
  · subst hr
    exact (execKpScan_deact hseq).trans (congrArg _ scanDeactivate_three)

/-- Settles O29: the failing access gives the abort, and the invariant keeps the rows at rest once
no scan is in progress. -/
theorem failedAccessAbortsTheScan : Obligations.FailedAccessAbortsTheScan := by
  intro s r c hio hd
  have hfail : accessOk s = false := (accessOk_false_iff s).2 ⟨hio, hd⟩
  refine ⟨fun hseq => ⟨s.keysAcc, ?_⟩, fun hseq => ⟨s.keysAcc, ?_⟩, fun hi u h hidle => ?_⟩
  · exact (execKpScan_sample hseq).trans (congrArg _ (scanSample_of_fail hfail r c))
  · exact (execKpScan_act hseq).trans (congrArg _ (scanActivate_of_fail hfail r))
  · exact (atMostOneRowActive u (execKpScan_keeps_inv hi h)).1 hidle

/-! ### What a micro-step depends on, 40_keypad.md R110 -/

/-- The scan goes on alike from `s` to `u` and from `s'` to `u'`: to the same triple, with the same
keys found and the same response. -/
def SameScanStep (s u s' u' : State) : Prop :=
  u.seq = u'.seq ∧ u.keysAcc = u'.keysAcc ∧
    ∃ l, u.responses = s.responses ++ l ∧ u'.responses = s'.responses ++ l

theorem sameScanStep_abort {v v' : State} (hkeys : v.keysAcc = v'.keysAcc)
    (hv : v.responses = s.responses) (hv' : v'.responses = s'.responses) :
    SameScanStep s (abortScan v) s' (abortScan v') :=
  ⟨rfl, hkeys, [⟨.hwReadError, 0⟩], congrArg (· ++ _) hv, congrArg (· ++ _) hv'⟩

section
variable (hkeys : s.keysAcc = s'.keysAcc)
include hkeys

theorem sameScanStep_activate (h : accessOk s = accessOk s') (r : Fin 4) :
    SameScanStep s (scanActivate s r) s' (scanActivate s' r) := by
  rcases ha : accessOk s
  · rw [scanActivate_of_fail ha, scanActivate_of_fail (h ▸ ha)]
    exact sameScanStep_abort hkeys rfl rfl
  · rw [scanActivate_of_ok ha, scanActivate_of_ok (h ▸ ha)]
    exact ⟨rfl, hkeys, [], by simp⟩

theorem sameScanStep_sample (hcfg : s.cfg = s'.cfg)
    (h : gpioRead s (.col c) = gpioRead s' (.col c)) (r : Fin 4) :
    SameScanStep s (scanSample s r c) s' (scanSample s' r c) := by
  unfold scanSample
  rw [← h]
  split
  · exact sameScanStep_abort hkeys rfl rfl
  · exact ⟨rfl, by simp only [hkeys, hcfg], [], by simp⟩

theorem sameScanStep_deactivate (r : Fin 4) :
    SameScanStep s (scanDeactivate s r) s' (scanDeactivate s' r) := by
  unfold scanDeactivate
  split
  · exact ⟨rfl, hkeys, [⟨.ok, keysData s.keysAcc⟩], rfl, by rw [hkeys]; rfl⟩
  · exact ⟨rfl, hkeys, [], by simp⟩

end

/-- Settles O35: each micro-step goes on alike where its one pin access answers alike. -/
theorem scanDependsOnlyOnItsSamples : Obligations.ScanDependsOnlyOnItsSamples := by
  intro s s' u u' hseq hrun hkeys hcfg hact hsample h h'
  rcases execKpScan_cases h with ⟨hs, -⟩ | ⟨r, c, hs, rfl⟩ | ⟨r, c, hs, rfl⟩ | ⟨r, c, hs, rfl⟩
  · exact absurd hs hrun
  · cases (execKpScan_act (hseq ▸ hs)).symm.trans h'
    exact sameScanStep_activate hkeys (hact r c hs) r
  · cases (execKpScan_sample (hseq ▸ hs)).symm.trans h'
    exact sameScanStep_sample hkeys hcfg (hsample r c hs) r
  · cases (execKpScan_deact (hseq ▸ hs)).symm.trans h'
    exact sameScanStep_deactivate hkeys r

end Sys2Proof.Machine
end

section
/-! PROOFS. A scan over any interleaving: the other agents leave it alone, it answers at its 24th
micro-step, and with exactly the pressed keys where no column is shared. 40_keypad.md R105, R106,
R112, R114. -/

namespace Sys2Proof.Machine

variable {s u v : State} {p : KeySet} {t : Turn} {r c : Fin 4}

/-! ### The turns of the other agents -/

/-- The registers of unit KP and the host port are as they were. -/
structure SameScan (s u : State) : Prop where
  kpCfg     : u.kpCfg = s.kpCfg
  rowDrive  : u.rowDrive = s.rowDrive
  seq       : u.seq = s.seq
  keysAcc   : u.keysAcc = s.keysAcc
  cmd       : u.cmd = s.cmd
  hostBusy  : u.hostBusy = s.hostBusy
  responses : u.responses = s.responses

/-- A turn but HOST's issue and reset runs the accepted command, or leaves the scan alone. -/
theorem takeTurn_cont_or_sameScan (hissue : isIssue t = false) (hreset : t ≠ .reset)
    (h : takeTurn t s = .next u) :
    (∃ d i, t = .cont d ∧ s.hostBusy = true ∧ s.cmd = some i ∧
      exec i (s.withDraw d) = .next u) ∨
    ((isCont t = true → s.hostBusy = false ∨ s.cmd = none) ∧ SameScan s u) := by
  rcases takeTurn_cases h with ⟨w, d, rfl, -⟩ | ⟨d, rfl, ⟨hnone, rfl⟩ | ⟨hbusy, i, hcmd, h⟩⟩ |
    ⟨d, rfl, h⟩ | ⟨e, rfl, rfl⟩ | ⟨rfl, -⟩
  · cases hissue
  · exact .inr ⟨fun _ => hnone, rfl, rfl, rfl, rfl, rfl, rfl, rfl⟩
  · exact .inl ⟨d, i, rfl, hbusy, hcmd, h⟩
  · obtain ⟨-, hcmd, hbusy, hresp, hseq, hkeys, hrow, hkp, -⟩ := execEncEdge_frame h
    exact .inr ⟨nofun, hkp, hrow, hseq, hkeys, hcmd, hbusy, hresp⟩
  · exact .inr ⟨nofun, rfl, rfl, rfl, rfl, rfl, rfl, rfl⟩
  · exact absurd rfl hreset

/-- While a scan is in progress such a turn is its micro-step, or leaves it alone.
40_keypad.md R114. -/
theorem Inv.takeTurn_scanning (hi : Inv s) (hrun : s.seq ≠ .idle) (hissue : isIssue t = false)
    (hreset : t ≠ .reset) (h : takeTurn t s = .next u) :
    (∃ d, t = .cont d ∧ execKpScan (s.withDraw d) = .next u) ∨
    (isCont t = false ∧ SameScan s u) := by
  obtain ⟨hbusy, hcmd⟩ := hi.scanning hrun
  rcases takeTurn_cont_or_sameScan hissue hreset h with ⟨d, i, rfl, -, hi, h⟩ | ⟨hcont, hsame⟩
  · cases hcmd.symm.trans hi
    exact .inl ⟨d, rfl, h⟩
  · refine .inr ⟨Bool.eq_false_iff.2 fun ht => ?_, hsame⟩
    simpa [hbusy, hcmd] using hcont ht

/-- With the host port free such a turn leaves it free, and the keypad as it is. -/
theorem takeTurn_free (hfree : s.hostBusy = false) (hissue : isIssue t = false)
    (hreset : t ≠ .reset) (h : takeTurn t s = .next u) : SameScan s u := by
  rcases takeTurn_cont_or_sameScan hissue hreset h with ⟨_, _, -, hbusy, -⟩ | ⟨-, hsame⟩
  · simp [hfree] at hbusy
  · exact hsame

/-- Only ENV moves the keys. 10_state.md R35. -/
theorem Inv.takeTurn_pressed (hi : Inv s) (hkeep : keepsKeys p t = true)
    (hp : s.env.pressed = p) (h : takeTurn t s = .next u) : u.env.pressed = p := by
  rcases takeTurn_instr h with ⟨i, d, -, hexec, -⟩ |
    ⟨-, ⟨_, rfl⟩ | ⟨_, _, -, -, rfl⟩ | ⟨e, rfl, rfl⟩ | ⟨-, rfl⟩⟩
  · rw [exec_env (hi.withDraw d) hexec]; exact hp
  · exact hp
  · exact hp
  · exact of_decide_eq_true hkeep
  · exact hp

/-- A property of the accepted command's turns so far and the state, kept by each turn, holds after
all of them. -/
theorem afterTurns_induction {P : Nat → State → Prop} {ts : List Turn} {n : Nat}
    (hstep : ∀ t ∈ ts, ∀ n u v, P n u → takeTurn t u = .next v →
      P (if isCont t then n + 1 else n) v)
    (h : P n s) : P (n + ts.countP isCont) (afterTurns s ts) := by
  induction ts generalizing s n with
  | nil => exact h
  | cons t rest ih =>
    obtain ⟨hhead, hrest⟩ := List.forall_mem_cons.1 hstep
    obtain ⟨u, hu⟩ := takeTurn_answers t s
    have hnext := ih hrest (hhead n s u h hu)
    have hcount : n + (t :: rest).countP isCont =
        (if isCont t then n + 1 else n) + rest.countP isCont := by
      rw [List.countP_cons]
      split <;> omega
    rw [hcount]
    exact (afterTurn_of_next hu ▸ hnext : P _ (afterTurns (afterTurn s t) rest))

/-! ### The length of a scan, 40_keypad.md R106 -/

/-- The micro-steps a scan in progress has behind it, six to a row. -/
def microStepsTaken : Seq → Nat
  | .idle => 0
  | .run r _ .act => 6 * r.val
  | .run r c .sample => 6 * r.val + c.val + 1
  | .run r _ .deact => 6 * r.val + 5

theorem microStepsTaken_lt (q : Seq) : microStepsTaken q < 24 := by
  rcases q with _ | ⟨r, c, _ | _ | _⟩ <;> simp only [microStepsTaken] <;> omega

theorem val_add_one_of_ne_three {i : Fin 4} (h : i ≠ 3) : (i + 1).val = i.val + 1 := by
  revert i; decide

theorem microStepsTaken_afterSample (r c : Fin 4) :
    microStepsTaken (afterSample r c) = microStepsTaken (.run r c .sample) + 1 := by
  unfold afterSample
  split
  · simp_all [microStepsTaken]
  · next hc => simp only [microStepsTaken, val_add_one_of_ne_three hc]; omega

theorem samplesTaken_afterSample (r c : Fin 4) :
    samplesTaken (afterSample r c) = keyBit r c + 1 := by
  unfold afterSample
  split
  · simp_all [samplesTaken, keyBit]
  · next hc => simp only [samplesTaken, keyBit, val_add_one_of_ne_three hc]; omega

/-- A micro-step whose access succeeds brings the scan one further, or is the 24th and answers. -/
theorem execKpScan_progress (ha : accessOk s = true) (hrun : s.seq ≠ .idle)
    (h : execKpScan s = .next u) :
    (u.seq ≠ .idle ∧ microStepsTaken u.seq = microStepsTaken s.seq + 1 ∧
      u.responses = s.responses) ∨
    (microStepsTaken s.seq = 23 ∧ u.hostBusy = false ∧
      u.responses = s.responses ++ [⟨.ok, keysData s.keysAcc⟩]) := by
  rcases execKpScan_cases h with ⟨hs, -⟩ | ⟨r, c, hs, rfl⟩ | ⟨r, c, hs, rfl⟩ | ⟨r, c, hs, rfl⟩
  · exact absurd hs hrun
  · rw [scanActivate_of_ok ha, hs]
    exact .inl ⟨nofun, rfl, rfl⟩
  · rw [scanSample_of_ok ha, hs]
    exact .inl ⟨afterSample_ne_idle r c, microStepsTaken_afterSample r c, rfl⟩
  · by_cases hr : r = 3
    · subst hr
      rw [scanDeactivate_three, hs]
      exact .inr ⟨rfl, rfl, rfl⟩
    · rw [scanDeactivate_of_ne_three hr, hs]
      refine .inl ⟨nofun, ?_, rfl⟩
      simp only [microStepsTaken, val_add_one_of_ne_three hr]
      omega

/-- Where `n` micro-steps have brought the scan that started in `s`: it is in progress, with no
response, or it has answered and the keypad is still configured. -/
structure ScanReached (s : State) (n : Nat) (u : State) : Prop where
  inv : Inv u
  cfg : u.cfg = s.cfg
  scan : (u.seq ≠ .idle ∧ microStepsTaken u.seq = n ∧ u.responses = s.responses) ∨
    (24 ≤ n ∧ u.hostBusy = false ∧ u.kpCfg = true ∧
      ∃ keys : Keys, u.responses = s.responses ++ [⟨.ok, keys.toNat⟩])

theorem ScanReached.takeTurn {n : Nat} (hu : ScanReached s n u) (hissue : isIssue t = false)
    (hreset : t ≠ .reset) (hok : accessSucceeds s.cfg t = true) (h : takeTurn t u = .next v) :
    ScanReached s (if isCont t then n + 1 else n) v := by
  refine ⟨takeTurn_keeps_inv hu.inv h, (takeTurn_cfg h).trans hu.cfg, ?_⟩
  rcases hu.scan with ⟨hrun, hn, hresp⟩ | ⟨hn, hfree, hkp, hresp⟩
  · rcases hu.inv.takeTurn_scanning hrun hissue hreset h with ⟨d, rfl, hscan⟩ | ⟨hcont, hsame⟩
    · have ha : accessOk (u.withDraw d) = true := by rw [accessOk_withDraw, hu.cfg]; exact hok
      rcases execKpScan_progress ha hrun hscan with ⟨hrun', hn', hresp'⟩ | ⟨hn', hfree, hresp'⟩
      · exact .inl ⟨hrun', hn'.trans (congrArg (· + 1) hn), hresp'.trans hresp⟩
      · obtain ⟨-, -, hkp, -⟩ := execKpScan_frame hscan
        have hend : n + 1 = 24 := congrArg (· + 1) (hn.symm.trans hn')
        exact .inr ⟨hend.ge, hfree, hkp.trans (hu.inv.scanCfg hrun), u.keysAcc, hresp ▸ hresp'⟩
    · rw [hsame.seq, hsame.responses, hcont]
      exact .inl ⟨hrun, hn, hresp⟩
  · have hsame := takeTurn_free hfree hissue hreset h
    refine .inr ⟨?_, hsame.hostBusy.trans hfree, hsame.kpCfg.trans hkp, hsame.responses ▸ hresp⟩
    split <;> omega

/-- A scan at its start has no micro-step behind it. 40_keypad.md R106. -/
theorem Inv.scanReached_start (hi : Inv s) (hseq : s.seq = .run 0 0 .act) : ScanReached s 0 s :=
  ⟨hi, rfl, .inl ⟨by simp [hseq], by rw [hseq]; rfl, rfl⟩⟩

/-- The rows of a configured keypad are at rest while the host port is free. 10_state.md R28. -/
theorem Inv.rows_of_free (hi : Inv s) (hfree : s.hostBusy = false) : s.rowDrive = restRows s := by
  rw [hi.rows, expectedRows, (hi.of_free hfree).2]

/-- Settles O32: the count of micro-steps says how far the scan is, over every interleaving. -/
theorem scanTakesTwentyFourMicroSteps : Obligations.ScanTakesTwentyFourMicroSteps := by
  intro s ts hi hseq hts
  have hrun : s.seq ≠ .idle := by simp [hseq]
  have hend : ScanReached s (0 + ts.countP isCont) (afterTurns s ts) := by
    refine afterTurns_induction (fun t ht n u v hu h => ?_) (hi.scanReached_start hseq)
    obtain ⟨hissue, hreset, hok⟩ := hts t ht
    exact hu.takeTurn hissue hreset hok h
  rw [Nat.zero_add] at hend
  rcases hend.scan with ⟨hrun', hn, hresp⟩ | ⟨hn, hfree, hkp, hresp⟩
  · have hlt := microStepsTaken_lt (afterTurns s ts).seq
    refine ⟨fun _ => ⟨hresp, (hend.inv.scanning hrun').1⟩, fun h => ?_⟩
    omega
  · refine ⟨fun h => absurd hn (not_le.2 h),
      fun _ => ⟨hresp, hfree, (hend.inv.of_free hfree).2, ?_⟩⟩
    rw [hend.inv.rows_of_free hfree, hi.rows_act hseq]
    exact restRows_congr (hkp.trans (hi.scanCfg hrun).symm) hend.cfg

/-! ### The keys a scan finds, 40_keypad.md R112 -/

/-- While row r is sampled it alone is active. 40_keypad.md R106. -/
theorem Inv.active_iff (hi : Inv s) (hseq : s.seq = .run r c .sample) (i : Fin 4) :
    s.rowDrive.get i = .level s.cfg.rowActive ↔ i = r := by
  rw [hi.rows_active (.inl hseq), Quad.get_set]
  by_cases hir : i = r
  · simp [hir]
  · simp [hir, restRows_inactive]

/-- The scan that `s` was in goes on and finds the keys `p`, or has answered with them. -/
def ScanFinds (p : KeySet) (s u : State) : Prop :=
  (scanFaithful p u ∧ u.responses = s.responses) ∨
  (u.hostBusy = false ∧ u.responses = s.responses ++ [⟨.ok, (keysOf p).toNat⟩])

/-- With no shared column a sample finds its key exactly if it is pressed. -/
theorem scanSample_finds (hi : Inv s) (hp : noSharedColumn p) (hf : scanFaithful p s)
    (ha : accessOk s = true) (hseq : s.seq = .run r c .sample) :
    ScanFinds p s (scanSample s r c) := by
  obtain ⟨hpressed, hcmd, -, hkeys⟩ := hf
  have hread : lineLevel s (.col c) = s.cfg.colActive ↔ (keysOf p).getLsbD (keyBit r c) = true := by
    rw [getLsbD_keysOf, ← hpressed]
    exact columnLevel_eq_colActive_iff (hpressed ▸ hp) (hi.active_iff hseq) s.draw.level
  rw [hseq] at hkeys
  rw [scanSample_of_ok ha]
  refine .inl ⟨⟨hpressed, hcmd, afterSample_ne_idle r c, ?_⟩, rfl⟩
  rw [samplesTaken_afterSample, keysBelow_succ, hkeys]
  simp only [hread]
  rfl

theorem execKpScan_finds (hi : Inv s) (hp : noSharedColumn p) (hf : scanFaithful p s)
    (ha : accessOk s = true) (h : execKpScan s = .next u) : ScanFinds p s u := by
  obtain ⟨hpressed, hcmd, hrun, hkeys⟩ := hf
  rcases execKpScan_cases h with ⟨hs, -⟩ | ⟨r, c, hs, rfl⟩ | ⟨r, c, hs, rfl⟩ | ⟨r, c, hs, rfl⟩
  · exact absurd hs hrun
  · rw [scanActivate_of_ok ha]
    rw [hs] at hkeys
    exact .inl ⟨⟨hpressed, hcmd, nofun, hkeys⟩, rfl⟩
  · exact scanSample_finds hi hp ⟨hpressed, hcmd, hrun, hkeys⟩ ha hs
  · rw [hs] at hkeys
    by_cases hr : r = 3
    · subst hr
      rw [scanDeactivate_three, hkeys]
      exact .inr ⟨rfl, congrArg (fun k => s.responses ++ [⟨.ok, k.toNat⟩]) (keysBelow_sixteen _)⟩
    · rw [scanDeactivate_of_ne_three hr]
      refine .inl ⟨⟨hpressed, hcmd, nofun, ?_⟩, rfl⟩
      rw [samplesTaken, val_add_one_of_ne_three hr]
      exact hkeys

theorem keepsKeys_quiet (h : keepsKeys p t = true) : isIssue t = false ∧ t ≠ .reset := by
  cases t with
  | issue w d => cases h
  | reset => cases h
  | cont d => exact ⟨rfl, nofun⟩
  | edge d => exact ⟨rfl, nofun⟩
  | env e => exact ⟨rfl, nofun⟩

theorem Inv.takeTurn_finds (hi : Inv s) (hp : noSharedColumn p) (hf : scanFaithful p s)
    (hkeep : keepsKeys p t = true) (hok : accessSucceeds s.cfg t = true)
    (h : takeTurn t s = .next u) : ScanFinds p s u := by
  obtain ⟨hpressed, hcmd, hrun, hkeys⟩ := hf
  obtain ⟨hissue, hreset⟩ := keepsKeys_quiet hkeep
  rcases hi.takeTurn_scanning hrun hissue hreset h with ⟨d, rfl, hscan⟩ | ⟨-, hsame⟩
  · exact execKpScan_finds (s := s.withDraw d) (hi.withDraw d) hp ⟨hpressed, hcmd, hrun, hkeys⟩
      hok hscan
  · replace hpressed := hi.takeTurn_pressed hkeep hpressed h
    rw [← hsame.cmd] at hcmd
    rw [← hsame.seq] at hrun
    rw [← hsame.seq, ← hsame.keysAcc] at hkeys
    exact .inl ⟨⟨hpressed, hcmd, hrun, hkeys⟩, hsame.responses⟩

/-- Settles O34: a turn keeps the scan at finding the pressed keys, or the scan answers. -/
theorem scanStaysFaithful : Obligations.ScanStaysFaithful := by
  intro p s u t hi hp hf hkeep hok h
  rcases hi.takeTurn_finds hp hf hkeep hok h with ⟨hf', -⟩ | ⟨hfree, hresp⟩
  · exact .inl hf'
  · exact .inr ⟨((takeTurn_keeps_inv hi h).of_free hfree).2, hfree, hresp⟩

theorem ScanFinds.takeTurn (hu : ScanFinds p s u) (hi : Inv u) (hp : noSharedColumn p)
    (hkeep : keepsKeys p t = true) (hok : accessSucceeds u.cfg t = true)
    (h : takeTurn t u = .next v) : ScanFinds p s v := by
  rcases hu with ⟨hf, hresp⟩ | ⟨hfree, hresp⟩
  · have hv := hi.takeTurn_finds hp hf hkeep hok h
    rwa [ScanFinds, hresp] at hv
  · obtain ⟨hissue, hreset⟩ := keepsKeys_quiet hkeep
    have hsame := takeTurn_free hfree hissue hreset h
    exact .inr ⟨hsame.hostBusy.trans hfree, hsame.responses.trans hresp⟩

/-- From its start a scan with no shared column answers with the pressed keys. -/
theorem Inv.scan_finds {ts : List Turn} (hi : Inv s) (hp : noSharedColumn p)
    (hseq : s.seq = .run 0 0 .act) (hf : scanFaithful p s)
    (hts : ∀ t ∈ ts, keepsKeys p t = true ∧ accessSucceeds s.cfg t = true)
    (hcount : ts.countP isCont = 24) :
    (afterTurns s ts).responses = s.responses ++ [⟨.ok, (keysOf p).toNat⟩] := by
  have hend : ScanReached s (0 + ts.countP isCont) (afterTurns s ts) ∧
      ScanFinds p s (afterTurns s ts) := by
    refine afterTurns_induction (P := fun n u => ScanReached s n u ∧ ScanFinds p s u)
      (fun t ht n u v ⟨hu, hfinds⟩ h => ?_) ⟨hi.scanReached_start hseq, .inl ⟨hf, rfl⟩⟩
    obtain ⟨hkeep, hok⟩ := hts t ht
    obtain ⟨hissue, hreset⟩ := keepsKeys_quiet hkeep
    exact ⟨hu.takeTurn hissue hreset hok h, hfinds.takeTurn hu.inv hp hkeep (hu.cfg ▸ hok) h⟩
  obtain ⟨hreached, ⟨⟨-, -, hrun, -⟩, -⟩ | ⟨-, hresp⟩⟩ := hend
  · rcases hreached.scan with ⟨-, hn, -⟩ | ⟨-, hfree, -⟩
    · have hlt := microStepsTaken_lt (afterTurns s ts).seq
      omega
    · exact absurd (hreached.inv.of_free hfree).2 hrun
  · exact hresp

/-- HOST's issue of KP.SCAN on a configured keypad starts a scan. 40_keypad.md R106. -/
theorem takeTurn_issue_scan (hfree : s.hostBusy = false) (hidle : s.seq = .idle)
    (hkp : s.kpCfg = true) (d : Draw) :
    takeTurn (.issue 0x02 d) s = .next (State.accept
      { s.withDraw d with keysAcc := 0, seq := .run 0 0 .act } .kpScan) := by
  have hopc : opcField (commandWord s.cfg.width 0x02) = opcodeOf .kpScan := opcField_commandWord _ _
  have hdec : decodeHostWord s.cfg.width 0x02 = .ok .kpScan :=
    decodeHost_eq_ok_iff.2 ⟨rfl, decode_eq_ok_iff.2 ⟨hopc, nofun⟩⟩
  rw [takeTurn_issue_of_ok hfree hdec]
  exact (execKpScan_idle (s := s.withDraw d) hidle).trans (congrArg _ (scanIssue_of_configured hkp))

/-- Settles O33: the scan has answered at its 24th micro-step, and what it answers with is the keys
it finds. -/
theorem scanReportsThePressedKeys : Obligations.ScanReportsThePressedKeys := by
  intro s d ts hi hfree hkp hp hts hcount
  have hissue := takeTurn_issue_scan hfree (hi.of_free hfree).2 hkp d
  have hi₀ := takeTurn_keeps_inv hi hissue
  refine ⟨keysOf s.env.pressed, ?_, getLsbD_keysOf s.env.pressed⟩
  have hend := hi₀.scan_finds (p := s.env.pressed) hp rfl
    ⟨rfl, rfl, nofun, (keysBelow_zero _).symm⟩ hts hcount
  exact (congrArg (fun u => (afterTurns u ts).responses) (afterTurn_of_next hissue)).trans hend

end Sys2Proof.Machine
end

section
/-! PROOFS. The scan's micro-step and the handler's: neither sees what the other writes.
40_keypad.md R114. -/

namespace Sys2Proof.Machine

variable {s u v : State}

/-- The machine `x` with all that ENC.EDGE reads and writes taken from `s`: the ENC registers, and
what the answer to its pin access depends on. 10_state.md R41. -/
def State.withEdgeInputs (x s : State) : State :=
  { x with env := s.env, cfg := s.cfg, draw := s.draw }.withEncRegs s.encRegs

theorem State.withEdgeInputs_of_eq {x : State} (hregs : s.encRegs = x.encRegs)
    (henv : s.env = x.env) (hcfg : s.cfg = x.cfg) (hdraw : s.draw = x.draw) :
    x.withEdgeInputs s = x := by
  rw [State.withEdgeInputs, hregs, henv, hcfg, hdraw]
  rfl

theorem edgeSampleA_withEdgeInputs (x s : State) :
    edgeSampleA (x.withEdgeInputs s) = x.withEdgeInputs (edgeSampleA s) := by
  rcases ha : accessOk s with _ | _
  · rw [edgeSampleA_of_fail ha, edgeSampleA_of_fail (s := x.withEdgeInputs s) ha]; rfl
  · rw [edgeSampleA_of_ok ha, edgeSampleA_of_ok (s := x.withEdgeInputs s) ha]; rfl

theorem edgeSampleB_withEdgeInputs (x s : State) :
    edgeSampleB (x.withEdgeInputs s) = x.withEdgeInputs (edgeSampleB s) := by
  rcases ha : accessOk s with _ | _
  · rw [edgeSampleB_of_fail ha, edgeSampleB_of_fail (s := x.withEdgeInputs s) ha]; rfl
  · rw [edgeSampleB_of_ok ha, edgeSampleB_of_ok (s := x.withEdgeInputs s) ha]; rfl

theorem execEncEdge_commutesWith_edgeInputs (x : State) :
    CommutesWith x.withEdgeInputs execEncEdge := by
  intro s
  have hphase : (x.withEdgeInputs s).encPhase = s.encPhase := rfl
  have hstart : handlerMayStart (x.withEdgeInputs s) = handlerMayStart s := rfl
  simp only [execEncEdge, hphase, hstart]
  split
  · split
    · rw [edgeSampleA_withEdgeInputs]; rfl
    · rfl
  · rw [edgeSampleB_withEdgeInputs]; rfl
  · rfl

/-- A micro-step of ENC.EDGE writes the ENC registers only, the draw apart. 10_state.md R41. -/
theorem execEncEdge_writes (h : execEncEdge s = .next u) (d : Draw) :
    u.withDraw d = (s.withDraw d).withEncRegs u.encRegs := by
  have hfix := (execEncEdge_commutesWith_edgeInputs s).fixed (g := s.withEdgeInputs) rfl h
  obtain ⟨henv, -⟩ := execEncEdge_frame h
  rw [State.withEdgeInputs, henv, execEncEdge_cfg h] at hfix
  exact congrArg (·.withDraw d) hfix.symm

/-- After a scan's micro-step the handler finds what it would have found before it. -/
theorem execEncEdge_after_scan {d d' : Draw} (hscan : execKpScan (s.withDraw d) = .next u)
    (hedge : execEncEdge (s.withDraw d') = .next v) :
    execEncEdge (u.withDraw d') = .next ((u.withDraw d').withEdgeInputs v) := by
  have hregs : u.encRegs = s.encRegs := execKp_encRegs (s := s.withDraw d) (.inr (.inl rfl)) hscan
  obtain ⟨henv, -⟩ := execKpScan_frame hscan
  have hsame : (u.withDraw d').withEdgeInputs (s.withDraw d') = u.withDraw d' :=
    State.withEdgeInputs_of_eq hregs.symm henv.symm (execKpScan_cfg hscan).symm rfl
  have hnext := (execEncEdge_commutesWith_edgeInputs (u.withDraw d')).next hedge
  rwa [hsame] at hnext

/-- After a handler's micro-step the scan does what it would have done before it. -/
theorem execKpScan_after_edge {d d' : Draw} (hscan : execKpScan (s.withDraw d) = .next u)
    (hedge : execEncEdge (s.withDraw d') = .next v) :
    execKpScan (v.withDraw d) = .next (u.withEncRegs v.encRegs) := by
  rw [execEncEdge_writes hedge d]
  exact (execKpScan_commutesWith_encRegs v.encRegs).next hscan

theorem afterTurn_scan {d : Draw} (hbusy : s.hostBusy = true) (hcmd : s.cmd = some .kpScan)
    (h : execKpScan (s.withDraw d) = .next u) : afterTurn s (.cont d) = u :=
  afterTurn_of_next ((takeTurn_cont_of_cmd hbusy hcmd).trans h)

theorem afterTurn_edge {d : Draw} (h : execEncEdge (s.withDraw d) = .next u) :
    afterTurn s (.edge d) = u := afterTurn_of_next h

/-- Settles O59: in both orders the scan's step gives the keypad and the port, and the handler's
step the ENC registers. -/
theorem scanAndHandlerStepsCommute : Obligations.ScanAndHandlerStepsCommute := by
  intro s d d' hbusy hcmd _
  obtain ⟨u, hscan⟩ := execKpScan_answers (s.withDraw d)
  obtain ⟨v, hedge⟩ := execEncEdge_answers (s.withDraw d')
  obtain ⟨huenv, -⟩ := execKpScan_frame hscan
  obtain ⟨hvenv, hvcmd, hvbusy, -⟩ := execEncEdge_frame hedge
  have hscanFirst : afterTurns s [.cont d, .edge d'] = (u.withDraw d').withEdgeInputs v :=
    calc afterTurns s [.cont d, .edge d'] = afterTurn (afterTurn s (.cont d)) (.edge d') := rfl
      _ = (u.withDraw d').withEdgeInputs v := by
        rw [afterTurn_scan hbusy hcmd hscan, afterTurn_edge (execEncEdge_after_scan hscan hedge)]
  have hedgeFirst : afterTurns s [.edge d', .cont d] = u.withEncRegs v.encRegs :=
    calc afterTurns s [.edge d', .cont d] = afterTurn (afterTurn s (.edge d')) (.cont d) := rfl
      _ = u.withEncRegs v.encRegs := by
        rw [afterTurn_edge hedge]
        exact afterTurn_scan (hvbusy.trans hbusy) (hvcmd.trans hcmd)
          (execKpScan_after_edge hscan hedge)
  have henv : v.env = u.env := hvenv.trans huenv.symm
  have hcfg : v.cfg = u.cfg := (execEncEdge_cfg hedge).trans (execKpScan_cfg hscan).symm
  rw [hscanFirst, hedgeFirst, State.withEdgeInputs, henv, hcfg]
  rfl

end Sys2Proof.Machine
end

section
/-! PROOFS. The transition table, its stored form, and how a delta is added. 41_encoder.md R130 to
R132. -/

namespace Sys2Proof.Machine

/-! ### The table and its stored form -/

theorem tableIndex_eq (pA pB cA cB : Level) : tableIndex pA pB cA cB =
    BitVec.ofNat 4 (8 * pA.toNat + 4 * pB.toNat + 2 * cA.toNat + cB.toNat) := by
  revert pA pB cA cB
  decide

/-- Settles O37: the index is a sum of weighted bits, and the table is read at its 16 indices. -/
theorem transitionTableEntries : Obligations.TransitionTableEntries :=
  ⟨tableIndex_eq, by decide⟩

theorem romCode_eq_deltaCode : ∀ idx : BitVec 4, romCode idx = deltaCode (tableEntry idx) := by
  decide

theorem deltaCode_eq_amb_iff (d : Delta) : deltaCode d = 0b10#2 ↔ d = .amb := by
  cases d <;> decide

/-- But for AMB a stored code is the delta in two's complement. 41_encoder.md R132. -/
theorem toInt_deltaCode {d : Delta} (h : d ≠ .amb) : (deltaCode d).toInt = deltaValue d := by
  cases d with
  | amb => exact absurd rfl h
  | minusOne => rfl
  | zero => rfl
  | plusOne => rfl

/-- Settles O38: each stored code is its entry's, and 0b10 is the code of AMB alone. -/
theorem storedTableIsTheTable : Obligations.StoredTableIsTheTable := by
  refine ⟨rfl, romCode_eq_deltaCode, rfl, rfl, rfl, rfl, fun d => toInt_deltaCode,
    fun n idx p hcode => ?_⟩
  have hamb : tableEntry idx = .amb :=
    (deltaCode_eq_amb_iff _).1 ((romCode_eq_deltaCode idx).symm.trans hcode)
  rw [hamb, applyDelta]

/-! ### Adding a delta -/

section
variable {n : Nat} {d : Delta} {p : Int}

theorem applyDelta_of_ne_amb (h : d ≠ .amb) (n : Nat) (p : Int) :
    applyDelta n d p = wrapPosition n (p + deltaValue d) := by
  cases d with
  | amb => exact absurd rfl h
  | minusOne => rfl
  | zero => rfl
  | plusOne => rfl

/-- On a position in range AMB adds 0 like any other delta. -/
theorem applyDelta_of_inRange (hn : 2 ≤ n) (d : Delta) (hp : operandInRange n p = true) :
    applyDelta n d p = wrapPosition n (p + deltaValue d) := by
  by_cases hamb : d = .amb
  · rw [hamb, deltaValue, add_zero, wrapPosition_of_inRange hn hp, applyDelta]
  · exact applyDelta_of_ne_amb hamb n p

/-- A wrap is congruent to what is wrapped. 00_scope.md R12. -/
theorem exists_wrapPosition_eq (n : Nat) (x : Int) :
    ∃ k : Int, wrapPosition n x = x + k * 2 ^ n := by
  refine ⟨-(x.bdiv (2 ^ n)), ?_⟩
  rw [wrapPosition, Int.bmod_eq_self_sub_bdiv_mul]
  push_cast
  ring

/-- A wrap is the one number in range that is congruent to what is wrapped. 00_scope.md R12. -/
theorem wrapPosition_eq_of_congr {x v k : Int} (hn : 2 ≤ n) (hv : operandInRange n v = true)
    (h : x = v + k * 2 ^ n) : wrapPosition n x = v := by
  have hcongr : wrapPosition n (v + k * 2 ^ n) = wrapPosition n v := by
    simpa [wrapPosition] using Int.add_mul_bmod_self_right v k (2 ^ n)
  rw [h, hcongr, wrapPosition_of_inRange hn hv]

theorem operandInRange_min (n : Nat) : operandInRange n (-2 ^ (n - 1)) = true := by
  rw [operandInRange_iff]
  have hpos : (0 : Int) < 2 ^ (n - 1) := by positivity
  omega

theorem operandInRange_max (n : Nat) : operandInRange n (2 ^ (n - 1) - 1) = true := by
  rw [operandInRange_iff]
  have hpos : (0 : Int) < 2 ^ (n - 1) := by positivity
  omega

theorem applyDelta_plusOne_max (hn : 2 ≤ n) :
    applyDelta n .plusOne (2 ^ (n - 1) - 1) = -2 ^ (n - 1) := by
  have hp := two_pow_pred hn
  refine wrapPosition_eq_of_congr (k := 1) hn (operandInRange_min n) ?_
  rw [deltaValue]
  omega

theorem applyDelta_minusOne_min (hn : 2 ≤ n) :
    applyDelta n .minusOne (-2 ^ (n - 1)) = 2 ^ (n - 1) - 1 := by
  have hp := two_pow_pred hn
  refine wrapPosition_eq_of_congr (k := -1) hn (operandInRange_max n) ?_
  rw [deltaValue]
  omega

theorem applyDelta_plusOne_of_ne_max (hn : 2 ≤ n) (hp : operandInRange n p = true)
    (hne : p ≠ 2 ^ (n - 1) - 1) : applyDelta n .plusOne p = p + 1 := by
  refine wrapPosition_of_inRange hn ?_
  rw [operandInRange_iff] at hp ⊢
  rw [deltaValue]
  omega

theorem applyDelta_minusOne_of_ne_min (hn : 2 ≤ n) (hp : operandInRange n p = true)
    (hne : p ≠ -2 ^ (n - 1)) : applyDelta n .minusOne p = p - 1 := by
  refine wrapPosition_of_inRange hn ?_
  rw [operandInRange_iff] at hp ⊢
  rw [deltaValue]
  omega

theorem applyDelta_zero (hn : 2 ≤ n) (hp : operandInRange n p = true) :
    applyDelta n .zero p = p := by
  rw [applyDelta, deltaValue, add_zero, wrapPosition_of_inRange hn hp]

end

/-! ### The commit -/

theorem execEncEdge_of_gotB {s : State} (h : s.encPhase = .gotB) :
    execEncEdge s = .next (edgeCommit s) := by
  simp only [execEncEdge, h]

/-- Settles O39: a sum is wrapped only at the two ends of the range, and the commit writes it. -/
theorem deltaAddsAndWraps : Obligations.DeltaAddsAndWraps := by
  refine ⟨fun n d p hn hp => ⟨?_, fun hd => ⟨applyDelta_inRange hn d hp, ?_⟩, ?_, ?_, ?_, ?_, ?_⟩,
    fun s u hphase h => ?_⟩
  · rintro rfl; rfl
  · rw [applyDelta_of_ne_amb hd]
    exact exists_wrapPosition_eq n _
  · rintro rfl rfl; exact applyDelta_plusOne_max hn
  · rintro rfl hne; exact applyDelta_plusOne_of_ne_max hn hp hne
  · rintro rfl rfl; exact applyDelta_minusOne_min hn
  · rintro rfl hne; exact applyDelta_minusOne_of_ne_min hn hp hne
  · rintro rfl; exact applyDelta_zero hn hp
  · cases (execEncEdge_of_gotB hphase).symm.trans h
    exact ⟨rfl, rfl, rfl⟩

end Sys2Proof.Machine
end

section
/-! PROOFS. The encoder's host commands: the hold, and the exact next state of each. 41_encoder.md
R133, R134, R140 to R144. -/

namespace Sys2Proof.Machine

variable {s : State}

/-! ### The encoder's pins, 41_encoder.md R133 -/

theorem a_mem_encPinList (p : Pins) : (p.a, .inEdgePu) ∈ encPinList p := by simp [encPinList]

theorem b_mem_encPinList (p : Pins) : (p.b, .inEdgePu) ∈ encPinList p := by simp [encPinList]

theorem btn_mem_encPinList (p : Pins) : (p.btn, .inPlain) ∈ encPinList p := by simp [encPinList]

theorem notMem_encPinList_of_ne {p : Pins} {q : PinId} (ha : q ≠ p.a) (hb : q ≠ p.b)
    (hbtn : q ≠ p.btn) : q ∉ (encPinList p).map Prod.fst := by
  simp [encPinList, ha, hb, hbtn]

/-! ### ENC.INIT and ENC.SHUTDOWN -/

theorem encInitEffect_of_error {f : ClaimFailure}
    (h : claimAll s.cfg s.claimed (encPinList s.cfg.pins) = .error f) :
    encInitEffect s = .next (s.raise .hwInitError) := by
  simp only [encInitEffect, h]

theorem encInitEffect_of_ok {m : Claims}
    (h : claimAll s.cfg s.claimed (encPinList s.cfg.pins) = .ok m) :
    encInitEffect s = .next (State.respond { s with
      claimed := m, position := 0, prevA := false, prevB := false
      edgePending := false, encCfg := true } .ok 0) := by
  simp only [encInitEffect, h]

/-- Settles O41: ENC.INIT holds, or follows `ClaimAll`, which fails on R54's causes only. -/
theorem encInitClaimsAndClears : Obligations.EncInitClaimsAndClears := by
  refine ⟨fun n => rfl, fun s => ⟨fun hrun => withLock_of_run hrun _ _, fun hidle => ?_⟩⟩
  have hexec : exec .encInit s = encInitEffect s := withLock_of_idle hidle _ _
  rw [hexec]
  refine ⟨fun hfail => ?_, fun hfree => ?_⟩
  · obtain ⟨f, hf⟩ := claimAll_error_of_claimMustFail hfail
    exact encInitEffect_of_error hf
  · obtain ⟨m, hm⟩ := claimAll_ok_of_not_claimMustFail hfree
    exact ⟨m, encInitEffect_of_ok hm, claimAll_claims hm _ (a_mem_encPinList s.cfg.pins),
      claimAll_claims hm _ (b_mem_encPinList s.cfg.pins),
      claimAll_claims hm _ (btn_mem_encPinList s.cfg.pins),
      fun p ha hb hbtn => claimAll_of_notMem hm (notMem_encPinList_of_ne ha hb hbtn)⟩

theorem encShutdownEffect_of_configured (h : s.encCfg = true) :
    encShutdownEffect s = .next (State.respond { s with
      encCfg := false, edgePending := false
      claimed := releaseAll s.claimed (encPinList s.cfg.pins) } .ok 0) := if_pos h

theorem encShutdownEffect_of_unconfigured (h : s.encCfg = false) :
    encShutdownEffect s = .next (s.raise .notInitialized) := if_neg (Bool.eq_false_iff.1 h)

/-- Settles O45: ENC.SHUTDOWN holds, or releases a configured encoder's pins, read pin by pin. -/
theorem encShutdownReleases : Obligations.EncShutdownReleases := by
  refine ⟨fun n => rfl, fun s => ⟨fun hrun => withLock_of_run hrun _ _, fun hidle hcfg => ?_,
    fun hidle hcfg => ?_⟩⟩
  · refine ⟨releaseAll s.claimed (encPinList s.cfg.pins),
      (withLock_of_idle hidle _ _).trans (encShutdownEffect_of_configured hcfg),
      claimMode_releaseAll_of_mem (a_mem_encPinList s.cfg.pins),
      claimMode_releaseAll_of_mem (b_mem_encPinList s.cfg.pins),
      claimMode_releaseAll_of_mem (btn_mem_encPinList s.cfg.pins), fun p ha hb hbtn => ?_⟩
    rw [claimMode_releaseAll, if_neg (notMem_encPinList_of_ne ha hb hbtn)]
  · exact (withLock_of_idle hidle _ _).trans (encShutdownEffect_of_unconfigured hcfg)

/-! ### ENC.GETPOS, ENC.SETPOS and ENC.GETBTN -/

/-- The datum that writes a position is its residue modulo 2^DW. 30_encoding.md R76. -/
theorem positionData_eq (n : Nat) (p : Int) :
    positionData n p = (p % 2 ^ max 16 n).toNat := by
  rw [positionData, dataWidth, BitVec.toNat_ofInt]
  push_cast
  rfl

/-- Settles O42: ENC.GETPOS holds, or answers the position's residue. -/
theorem getposAnswersThePosition : Obligations.GetposAnswersThePosition := by
  refine ⟨fun n => rfl, fun s => ⟨fun hrun => withLock_of_run hrun _ _, fun hidle => ?_⟩⟩
  rw [← positionData_eq]
  exact withLock_of_idle hidle _ _

/-- Settles O43: ENC.SETPOS holds, or writes its operand, which a wrap leaves as it is. -/
theorem setposOverwritesThePosition : Obligations.SetposOverwritesThePosition := by
  refine ⟨fun n v _ => rfl, fun s v hv => ⟨fun hrun => withLock_of_run hrun _ _, fun hidle => ?_⟩⟩
  have hoperand : positionOperand s.cfg.width v = v :=
    wrapPosition_of_inRange s.cfg.posWidth.atLeastTwo hv
  refine (withLock_of_idle hidle _ _).trans ?_
  rw [encSetposEffect, hoperand, State.respond]

theorem levelData_eq (v : Level) : levelData v = if v then 1 else 0 := by
  cases v <;> rfl

theorem execEncGetbtn_of_ok (hcfg : s.encCfg = true) (ha : accessOk s = true) :
    execEncGetbtn s = .next (s.respond .ok (levelData s.env.lvlBtn)) := by
  simp [execEncGetbtn, hcfg, gpioRead_of_ok ha, lineLevel]

theorem execEncGetbtn_of_fail (hcfg : s.encCfg = true) (ha : accessOk s = false) :
    execEncGetbtn s = .next (s.raise .hwReadError) := by
  simp [execEncGetbtn, hcfg, gpioRead_of_fail ha]

theorem execEncGetbtn_of_unconfigured (h : s.encCfg = false) :
    execEncGetbtn s = .next (s.raise .notInitialized) := if_neg (Bool.eq_false_iff.1 h)

/-- Settles O44: ENC.GETBTN asks for the configuration first, then for the access. -/
theorem getbtnAnswersTheLiveLevel : Obligations.GetbtnAnswersTheLiveLevel := by
  refine ⟨fun n => rfl, fun s => ⟨fun hcfg hok => ?_, fun hcfg hio hd => ?_,
    execEncGetbtn_of_unconfigured⟩⟩
  · rw [← levelData_eq]
    exact execEncGetbtn_of_ok hcfg ((accessOk_iff s).2 hok)
  · exact execEncGetbtn_of_fail hcfg ((accessOk_false_iff s).2 ⟨hio, hd⟩)

/-! ### The hold, 41_encoder.md R144 -/

/-- Settles O40: four commands wait for the lock, and ENC.GETBTN answers on every path. -/
theorem commandsHoldDuringAHandlerRun : Obligations.CommandsHoldDuringAHandlerRun := by
  refine fun s => ⟨fun hrun => ⟨withLock_of_run hrun _ _, withLock_of_run hrun _ _,
    fun v _ => withLock_of_run hrun _ _, withLock_of_run hrun _ _⟩, fun u h => ?_⟩
  rcases execEncGetbtn_cases h with ⟨-, rfl⟩ | ⟨-, -, rfl⟩ | ⟨-, -, rfl⟩
  · rfl
  · rfl
  · rfl

end Sys2Proof.Machine
end

section
/-! PROOFS. The edge handler: its micro-steps, its failed reads, the edges that start it, and that
edges coalesce. 41_encoder.md R135 to R139, R146. -/

namespace Sys2Proof.Machine

variable {s u : State}

/-! ### The micro-steps -/

theorem execEncEdge_of_start (hphase : s.encPhase = .idle) (hcfg : s.encCfg = true)
    (hpend : s.edgePending = true) : execEncEdge s = .next (edgeSampleA s) := by
  simp [execEncEdge, handlerMayStart, hphase, hcfg, hpend]

theorem execEncEdge_of_gotA (h : s.encPhase = .gotA) :
    execEncEdge s = .next (edgeSampleB s) := by
  simp only [execEncEdge, h]

theorem applyDelta_eq_ite (n : Nat) (d : Delta) (p : Int) :
    applyDelta n d p = if d = .amb then p else (p + deltaValue d).bmod (2 ^ n) := by
  split
  case isTrue hamb => rw [hamb, applyDelta]
  case isFalse hne => exact applyDelta_of_ne_amb hne n p

/-- Settles O46: each micro-step is the one its phase selects, with a read that succeeds. -/
theorem edgeHandlerMicroSteps : Obligations.EdgeHandlerMicroSteps := by
  refine ⟨fun n => rfl, fun s => ⟨fun hphase hcfg hpend hok => ?_, fun hphase hok => ?_,
    fun hphase => ?_⟩⟩
  · rw [← edgeSampleA_of_ok ((accessOk_iff s).2 hok)]
    exact execEncEdge_of_start hphase hcfg hpend
  · have hB := edgeSampleB_of_ok ((accessOk_iff s).2 hok)
    exact (execEncEdge_of_gotA hphase).trans (congrArg _ hB)
  · rw [← applyDelta_eq_ite]
    exact execEncEdge_of_gotB hphase

/-- The record outlives every turn but reset. 10_state.md R36. -/
theorem takeTurn_keeps_encFault {t : Turn} (h : takeTurn t s = .next u) (hreset : t ≠ .reset)
    (hfault : s.encFault = true) : u.encFault = true := by
  rcases takeTurn_reset_or_instr h with hr | ⟨-, hnone⟩ | ⟨i, d, -, hexec, -⟩
  · exact absurd hr hreset
  · obtain ⟨-, -, -, hkept⟩ := takeTurn_keeps_of_no_instr h hnone hreset
    exact hkept.trans hfault
  · rcases exec_encFault_cases hexec with hkept | ⟨-, -, -, hset⟩
    · exact hkept.trans hfault
    · exact hset

/-- Settles O47: a failed read ends the run at either sampling step, and the record stays. -/
theorem handlerReadFailureSetsTheRecord : Obligations.HandlerReadFailureSetsTheRecord := by
  refine ⟨fun s hio hd => ?_, fun t s u hfault hreset h => takeTurn_keeps_encFault h hreset hfault⟩
  have ha := (accessOk_false_iff s).2 ⟨hio, hd⟩
  refine ⟨fun hphase hcfg hpend => ?_, fun hphase => ?_⟩
  · rw [← edgeSampleA_of_fail ha]
    exact execEncEdge_of_start hphase hcfg hpend
  · rw [← edgeSampleB_of_fail ha]
    exact execEncEdge_of_gotA hphase

/-! ### Edges, 41_encoder.md R135 -/

/-- Settles O48: `State.envStep` sets `edge_pending` on an edge of a configured encoder. -/
theorem edgeSetsPending : Obligations.EdgeSetsPending := by
  refine fun s e => ⟨(s.envStep e).edgePending, rfl, fun hedge hcfg => ?_, fun _ hcfg => ?_,
    fun hA hB => ?_⟩
  · have hchanged : (s.env.lvlA != e.lvlA || s.env.lvlB != e.lvlB) = true := by
      simpa using hedge.imp Ne.symm Ne.symm
    simp [hcfg, hchanged]
  · simp [hcfg]
  · simp [hA, hB]

/-! ### Coalescing, 41_encoder.md R146 -/

/-- A run in progress ends within `n` micro-steps, and no edge that could start another waits. -/
structure RunsOutIn (n : Nat) (s : State) : Prop where
  steps : microStepsLeft s.encPhase ≤ n
  noneWaits : (s.encCfg && s.edgePending) = false

theorem RunsOutIn.over (h : RunsOutIn 0 s) :
    s.encPhase = .idle ∧ handlerMayStart s = false := by
  obtain ⟨hsteps, hwaits⟩ := h
  refine ⟨?_, by simp [handlerMayStart, hwaits]⟩
  rcases hphase : s.encPhase <;> simp_all [microStepsLeft]

@[simp] theorem edgeSampleA_edgePending (s : State) : (edgeSampleA s).edgePending = false := by
  rcases ha : accessOk s <;> simp [edgeSampleA_of_fail, edgeSampleA_of_ok, ha]

@[simp] theorem edgeSampleB_edgePending (s : State) :
    (edgeSampleB s).edgePending = s.edgePending := by
  rcases ha : accessOk s <;> simp [edgeSampleB_of_fail, edgeSampleB_of_ok, ha]

/-- The handler consumes an edge and raises none. 41_encoder.md R136. -/
theorem execEncEdge_edgePending (h : execEncEdge s = .next u) :
    u.edgePending = s.edgePending ∨ u.edgePending = false := by
  rcases execEncEdge_cases h with ⟨-, -, rfl⟩ | ⟨-, -, -, rfl⟩ | ⟨-, rfl⟩ | ⟨-, rfl⟩
  · exact .inl rfl
  · exact .inr (edgeSampleA_edgePending s)
  · exact .inl (edgeSampleB_edgePending s)
  · exact .inl rfl

theorem execEncEdge_encCfg (h : execEncEdge s = .next u) : u.encCfg = s.encCfg := by
  obtain ⟨-, -, -, -, -, -, -, -, -, hcfg⟩ := execEncEdge_frame h
  exact hcfg

/-- Each micro-step brings the end nearer, and where no run is left none starts. -/
theorem RunsOutIn.afterMicroStep {n : Nat} (hs : RunsOutIn (n + 1) s)
    (h : execEncEdge s = .next u) : RunsOutIn n u where
  steps := by
    by_cases hidle : s.encPhase = .idle
    · have hstart : handlerMayStart s = false := by simp [handlerMayStart, hs.noneWaits]
      cases (execEncEdge_of_disabled hidle hstart).symm.trans h
      simp [hidle, microStepsLeft]
    · exact Nat.le_of_lt_succ ((execEncEdge_microStepsLeft h hidle).trans_le hs.steps)
  noneWaits := by
    rw [execEncEdge_encCfg h]
    rcases execEncEdge_edgePending h with hpend | hpend
    · rw [hpend, hs.noneWaits]
    · simp [hpend]

/-- EDGE's first turn starts the one run, which consumes the edge, or finds none to start. -/
theorem runsOutIn_of_idle (hidle : s.encPhase = .idle) (h : execEncEdge s = .next u) :
    RunsOutIn 2 u := by
  refine ⟨microStepsLeft_le_two _, ?_⟩
  rcases execEncEdge_cases h with ⟨-, hstart, rfl⟩ | ⟨-, -, -, rfl⟩ | ⟨hgotA, -⟩ | ⟨hgotB, -⟩
  · simpa [handlerMayStart, hidle] using hstart
  · simp
  · simp [hidle] at hgotA
  · simp [hidle] at hgotB

theorem takeTurn_afterTurn (t : Turn) (s : State) : takeTurn t s = .next (afterTurn s t) := by
  obtain ⟨u, hu⟩ := takeTurn_answers t s
  rw [afterTurn_of_next hu, hu]

theorem RunsOutIn.afterEdge {n : Nat} (hs : RunsOutIn (n + 1) s) (d : Draw) :
    RunsOutIn n (afterTurn s (.edge d)) :=
  RunsOutIn.afterMicroStep (s := s.withDraw d) ⟨hs.steps, hs.noneWaits⟩
    (takeTurn_afterTurn (.edge d) s)

/-- ENV does not move the handler's phase. -/
theorem afterTurns_env_encPhase (es : List Env) (s : State) :
    (afterTurns s (es.map .env)).encPhase = s.encPhase := by
  induction es generalizing s with
  | nil => rfl
  | cons e rest ih => exact ih (s.envStep e)

/-- Settles O49: of three turns of EDGE the first starts the one run, and the others end it. -/
theorem edgesCoalesceIntoOneRun : Obligations.EdgesCoalesceIntoOneRun := by
  intro s es d1 d2 d3 hidle
  rw [afterTurns_append]
  have hfirst := runsOutIn_of_idle (s := (afterTurns s (es.map .env)).withDraw d1)
    ((afterTurns_env_encPhase es s).trans hidle) (takeTurn_afterTurn (.edge d1) _)
  exact ((hfirst.afterEdge d2).afterEdge d3).over

end Sys2Proof.Machine
end

section
/-! PROOFS. The position over a run: it accumulates the committed deltas, and a full Gray cycle adds
4. 41_encoder.md R147. -/

namespace Sys2Proof.Machine

variable {s u : State} {t : Turn}

/-! ### The accumulated delta -/

theorem mayRewritePosition_eq_false (h : mayRewritePosition t s = false) :
    t ≠ .reset ∧ turnInstr t s ≠ some .encInit ∧ ∀ v, turnInstr t s ≠ some (.encSetpos v) := by
  unfold mayRewritePosition at h
  split at h <;> simp_all

theorem committedDelta_of_commit (hinstr : turnInstr t s = some .encEdge)
    (hphase : s.encPhase = .gotB) : committedDelta t s =
      deltaValue (tableEntry (tableIndex s.prevA s.prevB s.latchA s.latchB)) := by
  simp only [committedDelta, hinstr, hphase]

theorem committedDelta_of_no_commit
    (h : ¬ (turnInstr t s = some .encEdge ∧ s.encPhase = .gotB)) : committedDelta t s = 0 := by
  unfold committedDelta
  split
  · exact absurd ⟨‹_›, ‹_›⟩ h
  · rfl

theorem takeTurn_position_of_commit (h : takeTurn t s = .next u) (hreset : t ≠ .reset)
    (hinstr : turnInstr t s = some .encEdge) (hphase : s.encPhase = .gotB) :
    u.position = applyDelta s.cfg.width
      (tableEntry (tableIndex s.prevA s.prevB s.latchA s.latchB)) s.position := by
  rcases takeTurn_reset_or_instr h with hr | ⟨-, hnone⟩ | ⟨i, d, hi, hexec, -⟩
  · exact absurd hr hreset
  · cases hinstr.symm.trans hnone
  · cases hinstr.symm.trans hi
    cases (execEncEdge_of_gotB (s := s.withDraw d) hphase).symm.trans hexec
    rfl

theorem takeTurn_position_of_no_commit (h : takeTurn t s = .next u)
    (hkeep : mayRewritePosition t s = false)
    (hcommit : ¬ (turnInstr t s = some .encEdge ∧ s.encPhase = .gotB)) :
    u.position = s.position := by
  obtain ⟨hreset, hinit, hsetpos⟩ := mayRewritePosition_eq_false hkeep
  by_contra hne
  rcases onlyFourThingsWriteThePosition t s u h hne with
    ⟨v, hinstr, -⟩ | hedge | ⟨hinstr, -⟩ | hr
  · exact hsetpos v hinstr
  · exact hcommit hedge
  · exact hinit hinstr
  · exact hreset hr

/-- A turn that does not rewrite the position adds what it commits. -/
theorem takeTurn_position (h : takeTurn t s = .next u)
    (hpos : operandInRange s.cfg.width s.position = true)
    (hkeep : mayRewritePosition t s = false) :
    u.position = wrapPosition s.cfg.width (s.position + committedDelta t s) := by
  have hn := s.cfg.posWidth.atLeastTwo
  by_cases hcommit : turnInstr t s = some .encEdge ∧ s.encPhase = .gotB
  · obtain ⟨hinstr, hphase⟩ := hcommit
    rw [takeTurn_position_of_commit h (mayRewritePosition_eq_false hkeep).1 hinstr hphase,
      committedDelta_of_commit hinstr hphase, applyDelta_of_inRange hn _ hpos]
  · rw [takeTurn_position_of_no_commit h hkeep hcommit, committedDelta_of_no_commit hcommit,
      add_zero, wrapPosition_of_inRange hn hpos]

theorem stateAt_cfg (choice : Nat → Turn) (s : State) (n : Nat) :
    (stateAt choice s n).cfg = s.cfg := by
  induction n with
  | zero => rfl
  | succ n ih => exact (takeTurn_cfg (takeTurn_afterTurn (choice n) (stateAt choice s n))).trans ih

/-- Settles O51: by induction on the length, since a wrap before an addition changes nothing. -/
theorem positionAccumulatesTheCommits : Obligations.PositionAccumulatesTheCommits := by
  intro choice s n hpos hkeep
  have hn := s.cfg.posWidth.atLeastTwo
  change (stateAt choice s n).position = wrapPosition s.cfg.width (s.position + deltaSum choice s n)
  induction n with
  | zero => rw [deltaSum, add_zero, wrapPosition_of_inRange hn hpos, stateAt]
  | succ n ih =>
    have hcfg := stateAt_cfg choice s n
    have hbefore := ih fun k hk => hkeep k (Nat.lt_succ_of_lt hk)
    have hrange : operandInRange (stateAt choice s n).cfg.width (stateAt choice s n).position
        = true := by
      rw [hcfg, hbefore]
      exact wrapPosition_inRange hn _
    calc (stateAt choice s (n + 1)).position
        = wrapPosition s.cfg.width
            ((stateAt choice s n).position + committedDelta (choice n) (stateAt choice s n)) := by
          rw [← hcfg]
          exact takeTurn_position (takeTurn_afterTurn _ _) hrange (hkeep n (Nat.lt_succ_self n))
      _ = wrapPosition s.cfg.width (s.position + deltaSum choice s (n + 1)) := by
          rw [hbefore, wrapPosition_wrapPosition_add, deltaSum, add_assoc]

/-! ### A full Gray cycle -/

/-- A configured encoder with no run in progress, whose lines are as its last run found them. -/
structure EncoderAtRest (c : Config) (p : Int) (a b : Level) (s : State) : Prop where
  cfg : s.cfg = c
  position : s.position = p
  configured : s.encCfg = true
  phase : s.encPhase = .idle
  prevA : s.prevA = a
  prevB : s.prevB = b
  lvlA : s.env.lvlA = a
  lvlB : s.env.lvlB = b

section
variable {d : Draw}

theorem afterTurn_edge_of_start (hphase : s.encPhase = .idle) (hcfg : s.encCfg = true)
    (hpend : s.edgePending = true) (hok : s.cfg.ioFaults = false ∨ d.ok = true) :
    afterTurn s (.edge d) = { s with
      draw := d, edgePending := false, encPhase := .gotA, latchA := s.env.lvlA } :=
  (afterTurn_edge (execEncEdge_of_start (s := s.withDraw d) hphase hcfg hpend)).trans
    (edgeSampleA_of_ok (s := s.withDraw d) ((accessOk_iff _).2 hok))

theorem afterTurn_edge_of_gotA (hphase : s.encPhase = .gotA)
    (hok : s.cfg.ioFaults = false ∨ d.ok = true) :
    afterTurn s (.edge d) = { s with draw := d, latchB := s.env.lvlB, encPhase := .gotB } :=
  (afterTurn_edge (execEncEdge_of_gotA (s := s.withDraw d) hphase)).trans
    (edgeSampleB_of_ok (s := s.withDraw d) ((accessOk_iff _).2 hok))

theorem afterTurn_edge_of_gotB (hphase : s.encPhase = .gotB) :
    afterTurn s (.edge d) = edgeCommit (s.withDraw d) :=
  afterTurn_edge (execEncEdge_of_gotB (s := s.withDraw d) hphase)

/-- A whole handler run whose reads succeed. 41_encoder.md R136 to R138. -/
theorem afterTurns_edge_run (hphase : s.encPhase = .idle) (hcfg : s.encCfg = true)
    (hpend : s.edgePending = true) (hok : s.cfg.ioFaults = false ∨ d.ok = true) :
    afterTurns s [.edge d, .edge d, .edge d] = { s with
      draw := d, edgePending := false, encPhase := .idle
      latchA := s.env.lvlA, latchB := s.env.lvlB, prevA := s.env.lvlA, prevB := s.env.lvlB
      position := applyDelta s.cfg.width
        (tableEntry (tableIndex s.prevA s.prevB s.env.lvlA s.env.lvlB)) s.position } := by
  have hfirst := afterTurn_edge_of_start hphase hcfg hpend hok
  have hsecond := afterTurn_edge_of_gotA (s := afterTurn s (.edge d)) (d := d)
    (by rw [hfirst]) (by rw [hfirst]; exact hok)
  have hthird := afterTurn_edge_of_gotB (s := afterTurn (afterTurn s (.edge d)) (.edge d)) (d := d)
    (by rw [hsecond])
  calc afterTurns s [.edge d, .edge d, .edge d]
      = afterTurn (afterTurn (afterTurn s (.edge d)) (.edge d)) (.edge d) := rfl
    _ = _ := by rw [hthird, hsecond, hfirst]; rfl

end

/-- A change of the lines with one handler run after it adds its table entry. 41_encoder.md R147. -/
theorem EncoderAtRest.afterTurnAndRun {c : Config} {p : Int} {a b a' b' : Level} {d : Draw}
    (hs : EncoderAtRest c p a b s) (hok : c.ioFaults = false ∨ d.ok = true) (e : Env)
    (hedge : a ≠ a' ∨ b ≠ b') :
    EncoderAtRest c (applyDelta c.width (tableEntry (tableIndex a b a' b')) p) a' b'
      (afterTurns s (turnAndRun e d a' b')) := by
  obtain ⟨rfl, rfl, hcfg, hphase, rfl, rfl, hA, hB⟩ := hs
  have hpend : (s.envStep { e with lvlA := a', lvlB := b' }).edgePending = true := by
    have hchanged : (s.env.lvlA != a' || s.env.lvlB != b') = true := by simpa [hA, hB] using hedge
    simp [hcfg, hchanged]
  have hrun := afterTurns_edge_run (s := s.envStep { e with lvlA := a', lvlB := b' })
    hphase hcfg hpend hok
  have hturns : afterTurns s (turnAndRun e d a' b') = _ := hrun
  rw [hturns]
  exact ⟨rfl, rfl, hcfg, rfl, rfl, rfl, rfl, rfl⟩

theorem applyDelta_plusOne_four (n : Nat) (p : Int) :
    applyDelta n .plusOne (applyDelta n .plusOne (applyDelta n .plusOne
      (applyDelta n .plusOne p))) = wrapPosition n (p + 4) := by
  simp only [applyDelta, deltaValue, wrapPosition_wrapPosition_add, add_assoc]
  rfl

theorem applyDelta_minusOne_four (n : Nat) (p : Int) :
    applyDelta n .minusOne (applyDelta n .minusOne (applyDelta n .minusOne
      (applyDelta n .minusOne p))) = wrapPosition n (p - 4) := by
  simp only [applyDelta, deltaValue, wrapPosition_wrapPosition_add, add_assoc]
  rfl

/-- Four changes, each with one run after it, take AB from 00 back to 00: rising A first in the +1
direction, rising B first in the other. 41_encoder.md R130, R147. -/
theorem EncoderAtRest.position_grayCycle {c : Config} {p : Int} {d : Draw}
    (hs : EncoderAtRest c p false false s) (hok : c.ioFaults = false ∨ d.ok = true) (e : Env)
    (aFirst : Bool) :
    (afterTurns s (turnAndRun e d aFirst (!aFirst) ++ turnAndRun e d true true ++
      turnAndRun e d (!aFirst) aFirst ++ turnAndRun e d false false)).position =
      wrapPosition c.width (if aFirst then p + 4 else p - 4) := by
  have hfirst := hs.afterTurnAndRun hok e (a' := aFirst) (b' := !aFirst)
    (by cases aFirst <;> decide)
  have hsecond := hfirst.afterTurnAndRun hok e (a' := true) (b' := true)
    (by cases aFirst <;> decide)
  have hthird := hsecond.afterTurnAndRun hok e (a' := !aFirst) (b' := aFirst)
    (by cases aFirst <;> decide)
  have hfourth := hthird.afterTurnAndRun hok e (a' := false) (b' := false)
    (by cases aFirst <;> decide)
  simp only [afterTurns_append]
  rw [hfourth.position]
  cases aFirst with
  | true => exact applyDelta_plusOne_four _ _
  | false => exact applyDelta_minusOne_four _ _

/-- Settles O52: each of the four changes adds +1, in the other direction -1. -/
theorem fullGrayCycleAddsFour : Obligations.FullGrayCycleAddsFour := by
  intro s d hcfg hphase hprevA hprevB hA hB hok
  have hs : EncoderAtRest s.cfg s.position false false s :=
    ⟨rfl, rfl, hcfg, hphase, hprevA, hprevB, hA, hB⟩
  exact ⟨hs.position_grayCycle hok s.env true, hs.position_grayCycle hok s.env false⟩

end Sys2Proof.Machine
end

section
/-! PROOFS. Errors: an illegal word, and what a command that ends with an error leaves.
60_exceptions.md R174, R176. -/

namespace Sys2Proof.Machine

variable {s u : State}

/-! ### Illegal words, 60_exceptions.md R174 -/

/-- HOST's issue answers a word that the host port refuses. 30_encoding.md R77. -/
theorem takeTurn_issue_of_error {w : Nat} {d : Draw} {e : Reject} (hfree : s.hostBusy = false)
    (hdec : decodeHostWord s.cfg.width w = .error e) :
    takeTurn (.issue w d) s = .next ((s.withDraw d).raise .illegalCommand) := by
  simp [takeTurn, issueCommand, hfree, hdec]

/-- Settles O10: the host port refuses the word, so the issue step answers it. -/
theorem illegalCommandChangesNothing : Obligations.IllegalCommandChangesNothing := by
  intro s w d hfree hopc
  obtain ⟨e, hdec⟩ := decodeHost_error_iff.2 hopc
  exact takeTurn_issue_of_error hfree hdec

/-! ### The two ways a step can answer -/

/-- No response, or one with status OK. -/
def NoErrorAnswer (s u : State) : Prop :=
  u.responses = s.responses ∨ ∃ x, u.responses = s.responses ++ [⟨.ok, x⟩]

/-- The error record alone: `st` is raised with no scan in progress any more, and the row lines are
as before unless a scan was in progress. 60_exceptions.md R176. -/
def ErrorAnswer (st : Status) (s u : State) : Prop :=
  ∃ rows, u = State.raise { s with rowDrive := rows, seq := .idle } st ∧
    (s.seq = .idle → rows = s.rowDrive)

/-- The step answers no error, or the error record alone. -/
def OnlyRaises (s u : State) : Prop := NoErrorAnswer s u ∨ ∃ st, ErrorAnswer st s u

theorem onlyRaises_of_responses_eq (h : u.responses = s.responses) : OnlyRaises s u := .inl (.inl h)

theorem onlyRaises_of_ok {x : Nat} (h : u.responses = s.responses ++ [⟨.ok, x⟩]) :
    OnlyRaises s u :=
  .inl (.inr ⟨x, h⟩)

theorem onlyRaises_raise (hidle : s.seq = .idle) (st : Status) : OnlyRaises s (s.raise st) := by
  refine .inr ⟨st, s.rowDrive, ?_, fun _ => rfl⟩
  rw [← hidle]

/-- A scan's abort may move the row lines, since a scan was in progress. 40_keypad.md R107, R108. -/
theorem onlyRaises_abortScan (hrun : s.seq ≠ .idle) (rows : Quad Drive) :
    OnlyRaises s (abortScan { s with rowDrive := rows }) :=
  .inr ⟨.hwReadError, rows, rfl, fun hidle => absurd hidle hrun⟩

/-! ### Every instruction -/

/-- A hold answers nothing. 41_encoder.md R144. -/
theorem withLock_onlyRaises {i : Instr} {f : State → Host.Outcome State Fault Refusal}
    (h : withLock i s f = .next u) (hf : f s = .next u → OnlyRaises s u) : OnlyRaises s u := by
  rcases withLock_cases h with ⟨-, rfl⟩ | ⟨-, h⟩
  · exact onlyRaises_of_responses_eq rfl
  · exact hf h

theorem execKpScan_onlyRaises (h : execKpScan s = .next u) : OnlyRaises s u := by
  rcases execKpScan_cases h with ⟨hseq, rfl⟩ | ⟨r, c, hseq, rfl⟩ | ⟨r, c, hseq, rfl⟩ |
    ⟨r, c, -, rfl⟩
  · unfold scanIssue
    split
    · exact onlyRaises_of_responses_eq rfl
    · exact onlyRaises_raise hseq _
  · rcases ha : accessOk s
    · rw [scanActivate_of_fail ha]
      exact onlyRaises_abortScan (by simp [hseq]) s.rowDrive
    · rw [scanActivate_of_ok ha]
      exact onlyRaises_of_responses_eq rfl
  · rcases ha : accessOk s
    · rw [scanSample_of_fail ha]
      exact onlyRaises_abortScan (by simp [hseq]) _
    · rw [scanSample_of_ok ha]
      exact onlyRaises_of_responses_eq rfl
  · unfold scanDeactivate
    split
    · exact onlyRaises_of_ok rfl
    · exact onlyRaises_of_responses_eq rfl

/-- Each meaning raises its error before it writes a register; a scan alone may meet one midway. -/
theorem exec_onlyRaises {i : Instr} (hseq : i ≠ .kpScan → i ≠ .encEdge → s.seq = .idle)
    (h : exec i s = .next u) : OnlyRaises s u := by
  cases i with
  | kpInit =>
    rcases execKpInit_cases h with ⟨_, -, rfl⟩ | ⟨_, -, rfl⟩
    · exact onlyRaises_raise (hseq nofun nofun) _
    · exact onlyRaises_of_ok rfl
  | kpScan => exact execKpScan_onlyRaises h
  | kpShutdown =>
    rcases execKpShutdown_cases h with ⟨-, rfl⟩ | ⟨-, rfl⟩
    · exact onlyRaises_raise (hseq nofun nofun) _
    · exact onlyRaises_of_ok rfl
  | encInit =>
    refine withLock_onlyRaises h fun h => ?_
    rcases encInitEffect_cases h with ⟨_, -, rfl⟩ | ⟨_, -, rfl⟩
    · exact onlyRaises_raise (hseq nofun nofun) _
    · exact onlyRaises_of_ok rfl
  | encGetpos =>
    refine withLock_onlyRaises h fun h => ?_
    cases h
    exact onlyRaises_of_ok rfl
  | encSetpos v =>
    refine withLock_onlyRaises h fun h => ?_
    cases h
    exact onlyRaises_of_ok rfl
  | encGetbtn =>
    rcases execEncGetbtn_cases h with ⟨-, rfl⟩ | ⟨-, -, rfl⟩ | ⟨-, -, rfl⟩
    · exact onlyRaises_raise (hseq nofun nofun) _
    · exact onlyRaises_raise (hseq nofun nofun) _
    · exact onlyRaises_of_ok rfl
  | encShutdown =>
    refine withLock_onlyRaises h fun h => ?_
    rcases encShutdownEffect_cases h with ⟨-, rfl⟩ | ⟨-, rfl⟩
    · exact onlyRaises_raise (hseq nofun nofun) _
    · exact onlyRaises_of_ok rfl
  | encEdge =>
    obtain ⟨-, -, -, hresp, -⟩ := execEncEdge_frame h
    exact onlyRaises_of_responses_eq hresp

/-! ### Every turn -/

/-- While another command than KP.SCAN is unanswered no scan is in progress. 10_state.md R29. -/
theorem Inv.idle_of_cmd_ne_kpScan (hi : Inv s) {i : Instr} (hcmd : s.cmd = some i)
    (hne : i ≠ .kpScan) : s.seq = .idle :=
  by_contra fun hrun => hne (Option.some.inj (hcmd.symm.trans (hi.scan.2 hrun)))

/-- Up to its draw, a turn answers no error or the error record alone. 60_exceptions.md R176. -/
theorem Inv.takeTurn_onlyRaises (hi : Inv s) {t : Turn} (h : takeTurn t s = .next u) :
    ∃ d, OnlyRaises (s.withDraw d) u := by
  rcases takeTurn_instr h with ⟨i, d, hinstr, hexec, rfl | ⟨w, rfl, hfree⟩ | ⟨rfl, -, hcmd⟩⟩ |
    ⟨-, ⟨d, rfl⟩ | ⟨w, d, -, hfree, rfl⟩ | ⟨e, -, rfl⟩ | ⟨-, rfl⟩⟩
  · cases hinstr
    exact ⟨d, exec_onlyRaises (fun _ hne => absurd rfl hne) hexec⟩
  · exact ⟨d, exec_onlyRaises (fun _ _ => (hi.of_free hfree).2) hexec⟩
  · exact ⟨d, exec_onlyRaises (fun hne _ => hi.idle_of_cmd_ne_kpScan hcmd hne) hexec⟩
  · exact ⟨d, onlyRaises_of_responses_eq rfl⟩
  · exact ⟨d, onlyRaises_raise (s := s.withDraw d) (hi.of_free hfree).2 _⟩
  · exact ⟨s.draw, onlyRaises_of_responses_eq rfl⟩
  · exact ⟨s.draw, onlyRaises_of_responses_eq rfl⟩

theorem NoErrorAnswer.status_eq_ok {r : Response} (h : NoErrorAnswer s u)
    (hr : u.responses = s.responses ++ [r]) : r.status = .ok := by
  rcases h with hsame | ⟨x, hok⟩
  · simp [hsame] at hr
  · rw [hok] at hr
    cases List.append_cancel_left hr
    rfl

/-- Settles O57: an error is the error record alone, and with no scan in progress any more the
invariant keeps the rows at rest. -/
theorem errorsLeaveTheRegisters : Obligations.ErrorsLeaveTheRegisters := by
  intro t s u r hi h hr hstatus
  have hinactive : u.seq = .idle → ∀ i, u.rowDrive.get i ≠ .level u.cfg.rowActive :=
    (atMostOneRowActive u (takeTurn_keeps_inv hi h)).1
  obtain ⟨d, hok | ⟨st, rows, rfl, hrows⟩⟩ := hi.takeTurn_onlyRaises h
  · exact absurd (hok.status_eq_ok hr) hstatus
  · cases List.append_cancel_left hr
    exact ⟨rfl, rfl, fun hidle => ⟨hrows hidle, rfl⟩, hinactive rfl⟩

end Sys2Proof.Machine
end

section
/-! PROOFS. Reset at any time, and that under fairness every accepted command is answered.
70_reset_and_hazards.md R200, R212, R214. -/

namespace Sys2Proof.Machine

variable {s u : State} {choice : Nat → Turn} {t : Turn} {i : Instr} {n : Nat}

/-! ### Reset, 70_reset_and_hazards.md R200 -/

/-- Settles O17: the turn is `State.applyReset`, which writes the reset values and keeps the
responses, ENV's state and the build. -/
theorem resetEventSetsEveryRegister : Obligations.ResetEventSetsEveryRegister := by
  intro s u h
  cases h
  have hrows : ∀ r, s.applyReset.rowDrive.get r = .z := Quad.get_all4 Drive.z
  exact ⟨rfl, rfl, rfl, rfl, rfl, rfl, rfl, rfl, hrows, rfl, rfl, rfl, rfl, rfl, rfl, rfl⟩

/-! ### Runs -/

theorem takeTurn_stateAt (choice : Nat → Turn) (s : State) (n : Nat) :
    takeTurn (choice n) (stateAt choice s n) = .next (stateAt choice s (n + 1)) :=
  takeTurn_afterTurn _ _

theorem inv_stateAt (hi : Inv s) (choice : Nat → Turn) (n : Nat) : Inv (stateAt choice s n) := by
  induction n with
  | zero => exact hi
  | succ n ih => exact takeTurn_keeps_inv ih (takeTurn_stateAt choice s n)

/-- A measure that no step raises before the goal, and that falls again and again until then, leads
to the goal. -/
theorem exists_goal_of_falling_measure {goal : Nat → Prop} {f : Nat → Nat}
    (hle : ∀ k, n ≤ k → goal k ∨ f (k + 1) ≤ f k)
    (hlt : ∀ k, n ≤ k → ∃ m, k ≤ m ∧ (goal m ∨ f (m + 1) < f m)) : ∃ m, n ≤ m ∧ goal m := by
  by_contra hno
  have hnever : ∀ m, n ≤ m → ¬ goal m := fun m hm hgoal => hno ⟨m, hm, hgoal⟩
  have hanti : ∀ k, n ≤ k → ∀ m, k ≤ m → f m ≤ f k := fun k hk m hm => by
    induction m, hm using Nat.le_induction with
    | base => exact le_rfl
    | succ m hkm ih =>
      have hm := hk.trans hkm
      exact ((hle m hm).resolve_left (hnever m hm)).trans ih
  have hfalls : ∀ d, ∃ m, n ≤ m ∧ f m + d ≤ f n := fun d => by
    induction d with
    | zero => exact ⟨n, le_rfl, le_rfl⟩
    | succ d ih =>
      obtain ⟨k, hk, hfk⟩ := ih
      obtain ⟨m, hm, hgoal | hfall⟩ := hlt k hk
      · exact absurd hgoal (hnever m (hk.trans hm))
      · have hfm := hanti k hk m hm
        exact ⟨m + 1, by omega, by omega⟩
  obtain ⟨m, -, hm⟩ := hfalls (f n + 1)
  omega

/-! ### The handler, 70_reset_and_hazards.md R214 (a) -/

/-- EDGE's turn, and a reset, bring a run in progress nearer its end. -/
theorem takeTurn_microStepsLeft_lt (h : takeTurn t s = .next u) (hrun : s.encPhase ≠ .idle)
    (ht : isEdge t = true ∨ t = .reset) :
    microStepsLeft u.encPhase < microStepsLeft s.encPhase := by
  rcases ht with ht | rfl
  · have hturn := afterTurn_microStepsLeft t hrun
    rw [afterTurn_of_next h, if_pos ht] at hturn
    omega
  · cases h
    change 0 < microStepsLeft s.encPhase
    revert hrun
    cases s.encPhase <;> decide

/-- Under fairness the handler's lock is free infinitely often: a run in progress is enabled, so
EDGE ends it, or a reset does. -/
theorem Fair.exists_encPhase_idle (hf : Fair choice s) (n : Nat) :
    ∃ m, n ≤ m ∧ (stateAt choice s m).encPhase = .idle := by
  refine exists_goal_of_falling_measure
    (f := fun m => microStepsLeft (stateAt choice s m).encPhase) (fun k _ => ?_) fun k _ => ?_
  · refine or_iff_not_imp_left.2 fun hrun => ?_
    exact takeTurn_microStepsLeft_le (takeTurn_stateAt choice s k) hrun
  · obtain ⟨m, hm, hedge⟩ := hf.edge k
    refine ⟨m, hm, or_iff_not_imp_left.2 fun hrun => ?_⟩
    exact takeTurn_microStepsLeft_lt (takeTurn_stateAt choice s m) hrun
      (hedge.resolve_left fun hoff => hoff (.inr hrun))

/-! ### The turn that frees the host port -/

/-- Turn `m` is a reset, or gives the response that frees the host port. -/
def FreedAt (choice : Nat → Turn) (s : State) (m : Nat) : Prop :=
  choice m = .reset ∨ Answered (stateAt choice s m) (stateAt choice s (m + 1))

theorem Inv.hostBusy_of_cmd (hi : Inv s) (hcmd : s.cmd = some i) : s.hostBusy = true := by
  rw [hi.busy, hcmd, Option.isSome_some]

/-- An accepted command stays the one in progress, but for its answer and a reset.
30_encoding.md R74. -/
theorem Inv.takeTurn_freed_or_waits (hi : Inv s) (hcmd : s.cmd = some i)
    (h : takeTurn t s = .next u) : (t = .reset ∨ Answered s u) ∨ u.cmd = some i := by
  rcases hi.takeTurn_port_cases h with ⟨-, hfree, -⟩ | ⟨-, -, hans | ⟨j, hj, -, -, hcmd'⟩⟩ |
    ⟨-, -, -, hcmd'⟩ | ⟨ht, -⟩
  · simp [hi.hostBusy_of_cmd hcmd] at hfree
  · exact .inl (.inr hans)
  · exact .inr (hcmd'.trans (hj.symm.trans hcmd))
  · exact .inr (hcmd'.trans hcmd)
  · exact .inl (.inl ht)

theorem Inv.cmd_stateAt_of_never_freed (hi : Inv s) (hcmd : (stateAt choice s n).cmd = some i)
    (hno : ¬ ∃ m, n ≤ m ∧ FreedAt choice s m) :
    ∀ m, n ≤ m → (stateAt choice s m).cmd = some i := by
  intro m hm
  induction m, hm using Nat.le_induction with
  | base => exact hcmd
  | succ m hm ih =>
    exact ((inv_stateAt hi choice m).takeTurn_freed_or_waits ih
      (takeTurn_stateAt choice s m)).resolve_left fun hfreed => hno ⟨m, hm, hfreed⟩

/-! ### A scan, 70_reset_and_hazards.md R214 (b) -/

/-- A micro-step brings the scan one further, or answers: its 24th with the keys, and one whose
access fails with an error. 40_keypad.md R106, R107, R108. -/
theorem execKpScan_answers_or_advances (hrun : s.seq ≠ .idle) (h : execKpScan s = .next u) :
    Answered s u ∨ microStepsTaken u.seq = microStepsTaken s.seq + 1 := by
  rcases execKpScan_cases h with ⟨hidle, -⟩ | ⟨r, c, hseq, rfl⟩ | ⟨r, c, hseq, rfl⟩ |
    ⟨r, c, hseq, rfl⟩
  · exact absurd hidle hrun
  · rcases ha : accessOk s
    · rw [scanActivate_of_fail ha]
      exact .inl (answered_respond rfl _ _)
    · rw [scanActivate_of_ok ha, hseq]
      exact .inr rfl
  · rcases ha : accessOk s
    · rw [scanSample_of_fail ha]
      exact .inl (answered_respond rfl _ _)
    · rw [scanSample_of_ok ha, hseq]
      exact .inr (microStepsTaken_afterSample r c)
  · by_cases hr : r = 3
    · rw [hr, scanDeactivate_three]
      exact .inl (answered_respond rfl _ _)
    · rw [scanDeactivate_of_ne_three hr, hseq]
      simp only [microStepsTaken, val_add_one_of_ne_three hr]
      omega

/-- No turn but a reset takes a scan back, and the accepted command's turn takes it further, until
it answers. -/
theorem Inv.takeTurn_scan_freed_or_advances (hi : Inv s) (hcmd : s.cmd = some .kpScan)
    (h : takeTurn t s = .next u) :
    (t = .reset ∨ Answered s u) ∨
      microStepsTaken s.seq + (if isCont t then 1 else 0) ≤ microStepsTaken u.seq := by
  have hbusy := hi.hostBusy_of_cmd hcmd
  rcases takeTurn_cases h with ⟨w, d, rfl, ⟨-, rfl⟩ | ⟨hfree, -⟩ | ⟨hfree, -⟩⟩ |
    ⟨d, rfl, ⟨hnone, -⟩ | ⟨-, i, hi', h⟩⟩ | ⟨d, rfl, h⟩ | ⟨e, rfl, rfl⟩ | ⟨ht, -⟩
  · exact .inr le_rfl
  · simp [hbusy] at hfree
  · simp [hbusy] at hfree
  · simp [hbusy, hcmd] at hnone
  · cases hcmd.symm.trans hi'
    exact (execKpScan_answers_or_advances (s := s.withDraw d) (hi.scan.1 hcmd) h).imp .inr Eq.ge
  · obtain ⟨-, -, -, -, hseq, -⟩ := execEncEdge_frame h
    exact .inr (congrArg microStepsTaken hseq).ge
  · exact .inr le_rfl
  · exact .inl (.inl ht)

/-- A scan's next micro-step is always enabled, so under fairness a scan that waits takes them all:
there are at most 24. -/
theorem Fair.exists_freedAt_of_scan (hf : Fair choice s) (hi : Inv s)
    (hcmd : ∀ m, n ≤ m → (stateAt choice s m).cmd = some .kpScan) :
    ∃ m, n ≤ m ∧ FreedAt choice s m := by
  have hadvance := fun m hm => (inv_stateAt hi choice m).takeTurn_scan_freed_or_advances (hcmd m hm)
    (takeTurn_stateAt choice s m)
  refine exists_goal_of_falling_measure
    (f := fun m => 24 - microStepsTaken (stateAt choice s m).seq) (fun k hk => ?_) fun k hk => ?_
  · refine (hadvance k hk).imp_right fun hle => ?_
    omega
  · obtain ⟨m, hm, hturn⟩ := hf.command k
    have hcmd' := hcmd m (hk.trans hm)
    have hcont : isCont (choice m) = true := hturn.resolve_left fun hoff =>
      hoff ⟨.kpScan, (inv_stateAt hi choice m).hostBusy_of_cmd hcmd', hcmd', nofun⟩
    refine ⟨m, hm, (hadvance m (hk.trans hm)).imp_right fun hle => ?_⟩
    have hlt := microStepsTaken_lt (stateAt choice s (m + 1)).seq
    rw [if_pos hcont] at hle
    omega

/-! ### A held command, 70_reset_and_hazards.md R214 (c) -/

/-- A command that takes the lock answers once it has it. 41_encoder.md R144. -/
theorem exec_answered_of_lock (hlock : i.takesLock = true) (hidle : s.encPhase = .idle)
    (h : exec i s = .next u) : Answered s u := by
  have heffect {f : State → Host.Outcome State Fault Refusal} (h : withLock i s f = .next u) :
      f s = .next u := withLock_of_idle hidle i f ▸ h
  cases i with
  | encInit =>
    rcases encInitEffect_cases (heffect h) with ⟨_, -, rfl⟩ | ⟨_, -, rfl⟩ <;>
      exact answered_respond rfl _ _
  | encGetpos =>
    cases heffect h
    exact answered_respond rfl _ _
  | encSetpos v =>
    cases heffect h
    exact answered_respond rfl _ _
  | encShutdown =>
    rcases encShutdownEffect_cases (heffect h) with ⟨-, rfl⟩ | ⟨-, rfl⟩ <;>
      exact answered_respond rfl _ _
  | kpInit | kpScan | kpShutdown | encGetbtn | encEdge => cases hlock

theorem Inv.takeTurn_cont_answered_of_lock (hi : Inv s) (hcont : isCont t = true)
    (hcmd : s.cmd = some i) (hlock : i.takesLock = true) (hidle : s.encPhase = .idle)
    (h : takeTurn t s = .next u) : Answered s u := by
  cases t with
  | cont d =>
    rw [takeTurn_cont_of_cmd (hi.hostBusy_of_cmd hcmd) hcmd] at h
    exact exec_answered_of_lock (s := s.withDraw d) hlock hidle h
  | issue | edge | env | reset => cases hcont

/-- Under fairness a command that takes the lock finds it free, and is answered. -/
theorem Fair.exists_freedAt_of_lock (hf : Fair choice s) (hi : Inv s)
    (hcmd : (stateAt choice s n).cmd = some i) (hlock : i.takesLock = true) :
    ∃ m, n ≤ m ∧ FreedAt choice s m := by
  obtain ⟨m, hm, hturn⟩ := hf.held n i hcmd hlock fun k _ => hf.exists_encPhase_idle k
  refine ⟨m, hm, hturn.imp_right fun ⟨hcont, hcmd', hidle⟩ => ?_⟩
  exact (inv_stateAt hi choice m).takeTurn_cont_answered_of_lock hcont hcmd' hlock hidle
    (takeTurn_stateAt choice s m)

/-! ### Every accepted command -/

/-- Settles O60: only KP.SCAN and the commands that take the lock wait, and fairness takes a scan
through its micro-steps and brings the others the lock. -/
theorem fairRunsAnswerEveryCommand : Obligations.FairRunsAnswerEveryCommand := by
  intro choice s hi hf n hbusy
  have hin := inv_stateAt hi choice n
  obtain ⟨i, hcmd⟩ := Option.isSome_iff_exists.1 (hin.busy.symm.trans hbusy)
  change ∃ m, n ≤ m ∧ FreedAt choice s m
  rcases hin.unanswered i hcmd with rfl | hlock
  · by_contra hno
    exact hno (hf.exists_freedAt_of_scan hi (hi.cmd_stateAt_of_never_freed hcmd hno))
  · exact hf.exists_freedAt_of_lock hi hcmd hlock

end Sys2Proof.Machine
end
